-- ==== Sys2Proof/Word.lean ====
section
/-!
DEFINITION. The word types of the ZL-PM9 (R2, R3, R34) and the plainest arithmetic on them.
-/
namespace Sys2Proof

/-- One byte of memory (R3). -/
abbrev Byte := BitVec 8
/-- A 16-bit value: an x register (R12). -/
abbrev W16 := BitVec 16
/-- A 32-bit value: one lane of a v register (R12). -/
abbrev W32 := BitVec 32
/-- A 64-bit value: a d register, an address, a queue entry (R12). -/
abbrev W64 := BitVec 64
/-- One instruction word (R62). -/
abbrev W96 := BitVec 96

/-- Bit L of a 32-lane mask. -/
def laneBit (m : W32) (L : Nat) : Bool := m.getLsbD L

/-- The 32-lane mask with exactly the lanes that satisfy `p`. -/
def maskOf (p : Nat → Bool) : W32 :=
  BitVec.ofNat 32 ((List.range 32).foldl (fun a L => if p L then a + 2 ^ L else a) 0)

/-- Bits [hi:lo] of a number (R3). -/
def bitsOf (x hi lo : Nat) : Nat := (x / 2 ^ lo) % 2 ^ (hi + 1 - lo)

end Sys2Proof
end

