-- ==== Sys2Proof/Machine/Float.lean ====
section
/-!
DEFINITION. Floating-point formats, exact values and their one rounding (R36 to R44), EXP2R (R58, R59) and the correctly rounded
functions of R60.
-/
namespace Sys2Proof.Machine

/-! Flags (R28) -/

def flNV : Byte := 0x01
def flOF : Byte := 0x02
def flUF : Byte := 0x04
def flDZ : Byte := 0x10
def flSAT : Byte := 0x20
def flUNIF : Byte := 0x40
def flFMT : Byte := 0x80

/-- A flag when a condition holds. -/
def flagIf (p : Bool) (f : Byte) : Byte := if p then f else 0

/-! Formats and values -/

/-- A floating-point format (R38, R40): fraction bits, exponent bits, bias, canonical NaN. Only E4M3 has no infinities. -/
structure Fmt where
  mb   : Nat
  eb   : Nat
  bias : Nat
  nan  : Nat
  inf  : Bool
  deriving DecidableEq, Repr, Inhabited

def fF32 : Fmt := { mb := 23, eb := 8, bias := 127, nan := 0x7FC0_0000, inf := true }
def fBF16 : Fmt := { mb := 7, eb := 8, bias := 127, nan := 0x7FC0, inf := true }
def fF16 : Fmt := { mb := 10, eb := 5, bias := 15, nan := 0x7E00, inf := true }
def fE4M3 : Fmt := { mb := 3, eb := 4, bias := 7, nan := 0x7F, inf := false }
def fE5M2 : Fmt := { mb := 2, eb := 5, bias := 15, nan := 0x7E, inf := true }

/-- The value of a code: NaN, an infinity, or ±m × 2^e. -/
inductive FVal where
  | nan
  | inf (neg : Bool)
  | fin (neg : Bool) (m : Nat) (e : Int)
  deriving DecidableEq, Repr, Inhabited

/-- Bits of a format. -/
def Fmt.width (f : Fmt) : Nat := 1 + f.eb + f.mb

/-- The value of a code (R38, R40). -/
def Fmt.decode (f : Fmt) (c : Nat) : FVal :=
  let neg := c / 2 ^ (f.width - 1) % 2 == 1
  let ex := c / 2 ^ f.mb % 2 ^ f.eb
  let fr := c % 2 ^ f.mb
  if f.inf && ex == 2 ^ f.eb - 1 then (if fr == 0 then .inf neg else .nan)
  else if !f.inf && ex == 2 ^ f.eb - 1 && fr == 2 ^ f.mb - 1 then .nan
  else if ex == 0 then .fin neg fr (1 - f.bias - f.mb)
  else .fin neg (2 ^ f.mb + fr) ((ex : Int) - f.bias - f.mb)

/-- Rounding modes (R36): 0 rne, 1 rz, 2 ru, 3 rd. -/
abbrev Mode := Nat

/-- Whether a magnitude k.rem is rounded up: `rem` of `2^sh`, with more below when `sticky`. -/
def roundsUp (mode : Mode) (neg : Bool) (k rem sh : Nat) (sticky : Bool) : Bool :=
  let inexact := rem != 0 || sticky
  match mode with
  | 0 => if sh == 0 then false else decide (2 ^ (sh - 1) < rem) || (rem == 2 ^ (sh - 1) && (sticky || k % 2 == 1))
  | 1 => false
  | 2 => !neg && inexact
  | _ => neg && inexact

/-- A rounded code and what the rounding met. -/
structure Rounded where
  code : Nat
  ovf  : Bool
  tiny : Bool
  deriving DecidableEq, Repr, Inhabited

/-- The sign bit of a format, if set. -/
def Fmt.sign (f : Fmt) (neg : Bool) : Nat := if neg then 2 ^ (f.width - 1) else 0

/-- The largest finite code. -/
def Fmt.maxCode (f : Fmt) : Nat := if f.inf then (2 ^ f.eb - 1) * 2 ^ f.mb - 1 else 2 ^ (f.width - 1) - 2

/-- Rounds ±(m, or just above m when `sticky`) × 2^e to a format (R36, R37, R42). `sticky` needs m of more bits than the format. -/
def Fmt.round (f : Fmt) (mode : Mode) (neg : Bool) (m : Nat) (e : Int) (sticky : Bool) : Rounded :=
  if m == 0 && !sticky then { code := f.sign neg, ovf := false, tiny := false } else
  let L : Int := Nat.log2 m
  let qmin : Int := 1 - f.bias - f.mb
  let q := max (e + L - f.mb) qmin
  let sh := (q - e).toNat
  let k := if q ≤ e then m * 2 ^ (e - q).toNat else m / 2 ^ sh
  let rem := if q ≤ e then 0 else m % 2 ^ sh
  let k := if roundsUp mode neg k rem sh sticky then k + 1 else k
  let code := (q - qmin).toNat * 2 ^ f.mb + k
  let tiny := decide (e + L < 1 - f.bias) && (rem != 0 || sticky)
  if f.maxCode < code then
    let toMax := !f.inf || mode == 1 || (mode == 2 && neg) || (mode == 3 && !neg)
    { code := f.sign neg + (if toMax then f.maxCode else f.maxCode + 1), ovf := true, tiny := false }
  else { code := f.sign neg + code, ovf := false, tiny := tiny }

/-- A value's code in a format, with OF and UF, or SAT and UF for E4M3 (R37, R39, R41, R42). -/
def Fmt.encode (f : Fmt) (mode : Mode) (v : FVal) : Nat × Byte :=
  match v with
  | .nan => (f.nan, 0)
  | .inf neg => if f.inf then (f.sign neg + f.maxCode + 1, 0) else (f.sign neg + f.maxCode, flSAT)
  | .fin neg m e =>
    let r := f.round mode neg m e false
    (r.code, flagIf r.ovf (if f.inf then flOF else flSAT) ||| flagIf r.tiny flUF)

/-! F32 values -/

def f32 (x : W32) : FVal := fF32.decode x.toNat

/-- Rounds to F32 with flags. -/
def toF32 (mode : Mode) (v : FVal) : W32 × Byte :=
  let r := fF32.encode mode v
  (BitVec.ofNat 32 r.1, r.2)

/-- The canonical NaN of F32 (R39). -/
def nanF32 : W32 := 0x7FC0_0000

/-- Signed mantissa. -/
def signed (neg : Bool) (m : Nat) : Int := if neg then -(m : Int) else m

/-- Exact sum; the sign of an exact zero follows R36. NV for ∞ − ∞. -/
def FVal.add (mode : Mode) (a b : FVal) : FVal × Bool :=
  match a, b with
  | .nan, _ => (.nan, false)
  | _, .nan => (.nan, false)
  | .inf n, .inf m => if n == m then (.inf n, false) else (.nan, true)
  | .inf n, _ => (.inf n, false)
  | _, .inf n => (.inf n, false)
  | .fin n m e, .fin n' m' e' =>
    let q := min e e'
    let s := signed n m * 2 ^ (e - q).toNat + signed n' m' * 2 ^ (e' - q).toNat
    if s == 0 then (if m == 0 && m' == 0 && n == n' then .fin n 0 0 else .fin (mode == 3) 0 0, false)
    else (.fin (decide (s < 0)) s.natAbs q, false)

/-- Exact product. NV for 0 × ∞. -/
def FVal.mul (a b : FVal) : FVal × Bool :=
  match a, b with
  | .nan, _ => (.nan, false)
  | _, .nan => (.nan, false)
  | .inf n, .inf m => (.inf (n != m), false)
  | .inf n, .fin m k _ => if k == 0 then (.nan, true) else (.inf (n != m), false)
  | .fin m k _, .inf n => if k == 0 then (.nan, true) else (.inf (n != m), false)
  | .fin n m e, .fin n' m' e' => (.fin (n != n') (m * m') (e + e'), false)

def FVal.neg : FVal → FVal
  | .nan => .nan
  | .inf n => .inf (!n)
  | .fin n m e => .fin (!n) m e

def FVal.isNan : FVal → Bool
  | .nan => true
  | _ => false

/-- Exact value × 2^k. -/
def FVal.scale (a : FVal) (k : Int) : FVal :=
  match a with
  | .fin n m e => .fin n m (e + k)
  | v => v

/-- An integer as an exact value. -/
def FVal.ofInt (i : Int) : FVal := .fin (decide (i < 0)) i.natAbs 0

/-- The integer that ±m × 2^e rounds to. -/
def roundInt (mode : Mode) (neg : Bool) (m : Nat) (e : Int) : Nat :=
  if 0 ≤ e then m * 2 ^ e.toNat
  else
    let sh := (-e).toNat
    let k := m / 2 ^ sh
    if roundsUp mode neg k (m % 2 ^ sh) sh false then k + 1 else k

/-- Less-than on non-NaN values; zeros are equal. -/
def FVal.lt (a b : FVal) : Bool :=
  match a, b with
  | .inf n, .inf m => n && !m
  | .inf n, .fin .. => n
  | .fin .., .inf n => !n
  | .fin n m e, .fin n' m' e' =>
    let q := min e e'
    decide (signed n m * 2 ^ (e - q).toNat < signed n' m' * 2 ^ (e' - q).toNat)
  | _, _ => false

/-- F32 sum, product and the flags OF, UF, NV. -/
def addF32 (mode : Mode) (a b : W32) : W32 × Byte :=
  let r := FVal.add mode (f32 a) (f32 b)
  let z := toF32 mode r.1
  (z.1, z.2 ||| flagIf r.2 flNV)

def mulF32 (mode : Mode) (a b : W32) : W32 × Byte :=
  let r := FVal.mul (f32 a) (f32 b)
  let z := toF32 mode r.1
  (z.1, z.2 ||| flagIf r.2 flNV)

/-- Fused multiply-add on values: NV is tested on the product first (R101). -/
def FVal.fma (mode : Mode) (a b c : FVal) : FVal × Bool :=
  let p := FVal.mul a b
  let s := FVal.add mode p.1 c
  (s.1, p.2 || s.2)

/-- The sign of a product that is a zero, added to a zero, follows the product's own sign: `FVal.add` handles it. -/
def fmaF32 (mode : Mode) (a b c : W32) : W32 × Byte :=
  let r := FVal.fma mode (f32 a) (f32 b) (f32 c)
  let z := toF32 mode r.1
  (z.1, z.2 ||| flagIf r.2 flNV)

/-- `fmin` and `fmax` (R102). -/
def minF32 (a b : W32) : W32 :=
  match f32 a, f32 b with
  | .nan, .nan => nanF32
  | .nan, _ => b
  | _, .nan => a
  | x, y => if FVal.lt x y then a else if FVal.lt y x then b else if a != b then 0x8000_0000 else a

def maxF32 (a b : W32) : W32 :=
  match f32 a, f32 b with
  | .nan, .nan => nanF32
  | .nan, _ => b
  | _, .nan => a
  | x, y => if FVal.lt x y then b else if FVal.lt y x then a else if a != b then 0 else a

/-! EXP2R (R58, R59) -/

/-- T[i] = rne_f32(2^(i/64)). -/
def expTable : List W32 :=
  [0x3F80_0000, 0x3F81_64D2, 0x3F82_CD87, 0x3F84_3A29, 0x3F85_AAC3, 0x3F87_1F62, 0x3F88_980F, 0x3F8A_14D5]
  ++ [0x3F8B_95C2, 0x3F8D_1ADF, 0x3F8E_A43A, 0x3F90_31DC, 0x3F91_C3D3, 0x3F93_5A2B, 0x3F94_F4F0, 0x3F96_942D]
  ++ [0x3F98_37F0, 0x3F99_E046, 0x3F9B_8D3A, 0x3F9D_3EDA, 0x3F9E_F532, 0x3FA0_B051, 0x3FA2_7043, 0x3FA4_3516]
  ++ [0x3FA5_FED7, 0x3FA7_CD94, 0x3FA9_A15B, 0x3FAB_7A3A, 0x3FAD_583F, 0x3FAF_3B79, 0x3FB1_23F6, 0x3FB3_11C4]
  ++ [0x3FB5_04F3, 0x3FB6_FD92, 0x3FB8_FBAF, 0x3FBA_FF5B, 0x3FBD_08A4, 0x3FBF_179A, 0x3FC1_2C4D, 0x3FC3_46CD]
  ++ [0x3FC5_672A, 0x3FC7_8D75, 0x3FC9_B9BE, 0x3FCB_EC15, 0x3FCE_248C, 0x3FD0_6334, 0x3FD2_A81E, 0x3FD4_F35B]
  ++ [0x3FD7_44FD, 0x3FD9_9D16, 0x3FDB_FBB8, 0x3FDE_60F5, 0x3FE0_CCDF, 0x3FE3_3F89, 0x3FE5_B907, 0x3FE8_396A]
  ++ [0x3FEA_C0C7, 0x3FED_4F30, 0x3FEF_E4BA, 0x3FF2_8177, 0x3FF5_257D, 0x3FF7_D0DF, 0x3FFA_83B3, 0x3FFD_3E0C]

/-- floor(x) and the exact fraction x − floor(x) as a numerator over 2^d. -/
def floorParts (neg : Bool) (m : Nat) (e : Int) : Int × Nat × Nat :=
  if 0 ≤ e then (signed neg (m * 2 ^ e.toNat), 0, 0)
  else
    let d := (-e).toNat
    let v := signed neg m
    (v / 2 ^ d, (v % 2 ^ d).toNat, d)

/-- EXP2R (R58). A magnitude beyond 2^12 is far outside the finite results. -/
def exp2r (x : W32) : W32 :=
  match f32 x with
  | .nan => nanF32
  | .inf neg => if neg then 0 else 0x7F80_0000
  | .fin neg m e =>
    if 4096 * 2 ^ (-e).toNat < m * 2 ^ e.toNat then (if neg then 0 else 0x7F80_0000) else
    let r := floorParts neg m e
    let i := 64 * r.2.1 / 2 ^ r.2.2
    let g := (toF32 0 (.fin false (64 * r.2.1 - i * 2 ^ r.2.2) (-(r.2.2 : Int) - 6))).1
    let p : W32 := 0x3D63_5847
    let p := (addF32 0 (mulF32 0 p g).1 0x3E75_FDF0).1
    let p := (addF32 0 (mulF32 0 p g).1 0x3F31_7218).1
    let p := (addF32 0 (mulF32 0 p g).1 0x3F80_0000).1
    (toF32 0 ((FVal.mul (f32 (expTable.getD i 0)) (f32 p)).1.scale r.1)).1

/-! The functions of R60, in fixed point of 640 fraction bits, rounded once (log 20) -/

/-- Fraction bits. -/
def fxP : Nat := 640

/-- floor(π/2 × 2^800). -/
def halfPi : Nat := 0x0001921FB54442D18469898CC51701B839A252049C1114CF98E804177D4C76273644A29410F31C6809BBDF2A33679A748636 * 2 ^ 416
  + 0x605614DBE4BE286E9FC26ADADAA3848BC90B6AECC4BCFD8DE89885D34C6FDAD617FEB96DE80D6FDBDC70D7F6B5133F4B5D3E * 2 ^ 16
  + 0x4822 * 2 ^ 0

/-- floor(ln 2 × 2^640). -/
def lnTwo : Nat := 0xB17217F7D1CF79ABC9E3B39803F2F6AF40F343267298B62D8A0D175B8BAAFA2BE7B876206DEBAC98559552FB4AFA1B10ED2E * 2 ^ 240
  + 0xAE35C138214427573B291169B8253E96CA16224AE8C51ACBDA11317C387E * 2 ^ 0

/-- floor(√n), bit by bit. -/
def isqrt (n : Nat) : Nat :=
  (List.range (Nat.log2 n / 2 + 1)).foldr (fun i r => if (r + 2 ^ i) * (r + 2 ^ i) ≤ n then r + 2 ^ i else r) 0

/-- Σ z^(2k+1)/(2k+1), the inverse hyperbolic tangent of a fixed-point z of at most 1/3. -/
def atanhFx (z : Nat) : Nat :=
  let z2 := z * z / 2 ^ fxP
  ((List.range 210).foldl (fun (a : Nat × Nat) k => (a.1 + a.2 / (2 * k + 1), a.2 * z2 / 2 ^ fxP)) (0, z)).1

/-- e^r for a fixed-point r in [0, 1). -/
def expFx (r : Nat) : Nat :=
  ((List.range 150).foldl (fun (a : Nat × Nat) k => (a.1 + a.2, a.2 * r / 2 ^ fxP / (k + 1))) (0, 2 ^ fxP)).1

/-- Sine (`odd`) or cosine of a fixed-point r in [0, π/2). -/
def trigFx (odd : Bool) (r : Nat) : Nat :=
  let r2 := r * r / 2 ^ fxP
  let o := if odd then 1 else 0
  let z := (List.range 80).foldl (fun (a : Int × Nat) k =>
      let n := 2 * k + o
      (if k % 2 == 0 then a.1 + a.2 else a.1 - a.2, a.2 * r2 / 2 ^ fxP / ((n + 1) * (n + 2))))
    ((0 : Int), if odd then r else 2 ^ fxP)
  z.1.toNat

/-- Rounds a positive or negative fixed-point magnitude, with more below. -/
def roundFx (neg : Bool) (m : Nat) (e : Int) : W32 × Byte :=
  let r := fF32.round 0 neg m e true
  (BitVec.ofNat 32 r.code, flagIf r.ovf flOF ||| flagIf r.tiny flUF)

/-- sin or cos of ±m × 2^e, by exact reduction (R60). -/
def sinCos (isSin : Bool) (neg : Bool) (m : Nat) (e : Int) : W32 × Byte :=
  if m == 0 then (if isSin then (BitVec.ofNat 32 (fF32.sign neg), 0) else (0x3F80_0000, 0)) else
  let X := m * 2 ^ (e + 800).toNat
  let q := X / halfPi
  let r := (X - q * halfPi) / 2 ^ 160
  let useSin := if isSin then q % 2 == 0 else q % 2 == 1
  let minus := if isSin then (2 ≤ q % 4) != neg else (q % 4 == 1 || q % 4 == 2)
  roundFx minus (trigFx useSin r) (-(fxP : Int))

def fsinF (x : W32) : W32 × Byte :=
  match f32 x with
  | .nan => (nanF32, 0)
  | .inf _ => (nanF32, flNV)
  | .fin neg m e => sinCos true neg m e

def fcosF (x : W32) : W32 × Byte :=
  match f32 x with
  | .nan => (nanF32, 0)
  | .inf _ => (nanF32, flNV)
  | .fin neg m e => sinCos false neg m e

def fexp2F (x : W32) : W32 × Byte :=
  match f32 x with
  | .nan => (nanF32, 0)
  | .inf neg => (if neg then 0 else 0x7F80_0000, 0)
  | .fin neg m e =>
    if 4096 * 2 ^ (-e).toNat < m * 2 ^ e.toNat then (if neg then (0, flUF) else (0x7F80_0000, flOF)) else
    let r := floorParts neg m e
    if r.2.1 == 0 then toF32 0 (.fin false 1 r.1)
    else
      let f := if r.2.2 ≤ fxP then r.2.1 * 2 ^ (fxP - r.2.2) else r.2.1 / 2 ^ (r.2.2 - fxP)
      roundFx false (expFx (f * lnTwo / 2 ^ fxP)) (r.1 - fxP)

def flog2F (x : W32) : W32 × Byte :=
  match f32 x with
  | .nan => (nanF32, 0)
  | .inf neg => if neg then (nanF32, flNV) else (0x7F80_0000, 0)
  | .fin neg m e =>
    if m == 0 then (0xFF80_0000, flDZ)
    else if neg then (nanF32, flNV)
    else
      let L := Nat.log2 m
      let k : Int := e + L
      if m == 2 ^ L then toF32 0 (FVal.ofInt k)
      else
        let z := (m - 2 ^ L) * 2 ^ fxP / (m + 2 ^ L)
        let lg := 2 * atanhFx z * 2 ^ fxP / lnTwo
        let v := k * 2 ^ fxP + lg
        if 0 ≤ v then roundFx false v.toNat (-(fxP : Int)) else roundFx true (v.natAbs - 1) (-(fxP : Int))

def frcpF (x : W32) : W32 × Byte :=
  match f32 x with
  | .nan => (nanF32, 0)
  | .inf neg => (BitVec.ofNat 32 (fF32.sign neg), 0)
  | .fin neg m e =>
    if m == 0 then (BitVec.ofNat 32 (fF32.sign neg + 0x7F80_0000), flDZ)
    else
      let k := Nat.log2 m + 64
      let r := fF32.round 0 neg (2 ^ k / m) (-e - k) (2 ^ k % m != 0)
      (BitVec.ofNat 32 r.code, flagIf r.ovf flOF ||| flagIf r.tiny flUF)

def fsqrtF (mode : Mode) (x : W32) : W32 × Byte :=
  match f32 x with
  | .nan => (nanF32, 0)
  | .inf neg => if neg then (nanF32, flNV) else (0x7F80_0000, 0)
  | .fin neg m e =>
    if m == 0 then (x, 0)
    else if neg then (nanF32, flNV)
    else
      let n := if e % 2 == 0 then m * 2 ^ 64 else 2 * m * 2 ^ 64
      let h := (if e % 2 == 0 then e else e - 1) / 2 - 32
      let s := isqrt n
      let r := fF32.round mode false s h (s * s != n)
      (BitVec.ofNat 32 r.code, flagIf r.ovf flOF ||| flagIf r.tiny flUF)

def frsqF (x : W32) : W32 × Byte :=
  match f32 x with
  | .nan => (nanF32, 0)
  | .inf neg => if neg then (nanF32, flNV) else (0, 0)
  | .fin neg m e =>
    if m == 0 then (BitVec.ofNat 32 (fF32.sign neg + 0x7F80_0000), flDZ)
    else if neg then (nanF32, flNV)
    else
      let k := 2 * (Nat.log2 m + 40) + (if e % 2 == 0 then 0 else 1)
      let s := isqrt (2 ^ k / m)
      let r := fF32.round 0 false s ((-e - k) / 2) (s * s * m != 2 ^ k)
      (BitVec.ofNat 32 r.code, flagIf r.ovf flOF ||| flagIf r.tiny flUF)

/-! B48I8 quantisation (R53) -/

/-- Q48 (R53): elements, scale byte, format error, saturation. -/
def q48 (xs : List W32) : List Int × Nat × Bool × Bool :=
  let vs := xs.map f32
  if vs.any fun v => (match v with | .fin .. => false | _ => true) then (vs.map fun _ => 0, 255, true, false)
  else if xs.all fun x => x.toNat % 2 ^ 31 == 0 then (vs.map fun _ => 0, 0, false, false)
  else
    let top (v : FVal) : Int := match v with | .fin _ m e => if m == 0 then -10000 else e + Nat.log2 m | _ => -10000
    let e := max (vs.foldl (fun a v => max a (top v)) (-10000) - 6) (-127)
    let qs := vs.map fun v => match v with | .fin n m x => signed n (roundInt 0 n m (x - e)) | _ => 0
    (qs.map fun q => if 127 < q then 127 else if q < -127 then -127 else q, (e + 127).toNat, false,
      qs.any fun q => decide (127 < q) || decide (q < -127))

end Sys2Proof.Machine
end

