-- ==== Sys2Proof/Fields.lean ====
section
/-!
DEFINITION. The decoded fields of an instruction word (R63 to R70) and the names that events and faults use.
-/
namespace Sys2Proof

/-- A crossbar pattern with its parameter (R67). -/
inductive Xbar where
  | id
  | rot  (k : BitVec 5)
  | bc   (k : BitVec 5)
  | bfly (k : BitVec 5)
  | mir  (k : BitVec 5)
  | fa
  | bcs  (k : BitVec 5)
  deriving DecidableEq, Repr, Inhabited

/-- One 18-bit operand field (R65, R66). -/
inductive Opnd where
  /-- register direct -/
  | vreg (n : BitVec 8) (x : Xbar)
  /-- register indexed: index register, signed offset -/
  | vidx (xn : BitVec 3) (off : BitVec 5) (x : Xbar)
  /-- short immediate -/
  | imm  (v : BitVec 16)
  /-- class 0 -/
  | pred (n : BitVec 3)
  /-- class 1 -/
  | tile (n : BitVec 5)
  /-- class 2 -/
  | dreg (n : BitVec 5)
  /-- class 3 -/
  | xreg (n : BitVec 3)
  /-- class 4 -/
  | slot (n : BitVec 3)
  /-- class 5, the constant zero -/
  | zero
  deriving DecidableEq, Repr, Inhabited

/-- The all-zero field, as an opcode that does not use it must carry (R71). -/
abbrev Opnd.unused : Opnd := .vreg 0 .id

/-- The fields every word carries: guard, stall, yield, reuse (R63, R64, R72). -/
structure Ctl where
  grd : BitVec 4
  stl : BitVec 4
  yld : BitVec 1
  ru  : BitVec 2
  deriving DecidableEq, Repr, Inhabited

/-- A word in operand form (R63). `xt` holds bits [95:85], so XT[85 + k] is bit k of it. -/
structure Op3 where
  ctl : Ctl
  var : BitVec 8
  xt  : BitVec 11
  sid : BitVec 4
  d   : Opnd
  a   : Opnd
  b   : Opnd
  deriving DecidableEq, Repr, Inhabited

/-- A word in long-immediate form (R63, R70). -/
structure OpL where
  ctl : Ctl
  var : BitVec 8
  xt  : BitVec 11
  sid : BitVec 4
  d   : Opnd
  imm : W32
  deriving DecidableEq, Repr, Inhabited

/-- An agent that issues words in a core: a warp or the driver of a workgroup slot, or the ostler (R215). -/
inductive AgentId where
  | warp (w : Nat)
  | driver
  | ostler
  deriving DecidableEq, Repr, Inhabited

/-- A host or peer access to memory (R236): the bytes to write, or how many to read; or the host's read of a BAR0 over CXL.io (R340,
R355, R365), of the physical function (0) or of VFID fn − 1, which only HOST_CXL_MEM_ACCESS carries (log 62). -/
inductive HostAccess where
  | read  (addr n : Nat)
  | write (addr : Nat) (data : List Byte) (poisoned : Bool)
  | bar   (fn off n : Nat)
  /-- a peer's bucket command on a prefix table of this module (R323; log 23): bucket, key block, mode as `kvfind` has it or 3 for `kvins`,
  page handle; only TOWPATH_PEER_ACCESS carries it -/
  | bucket (addr : Nat) (key : List Byte) (mode handle : Nat)
  deriving DecidableEq, Repr, Inhabited

/-- Bytes as they arrive from another module, with their poison mark (R361). -/
structure Received where
  bytes    : List Byte
  poisoned : Bool
  deriving DecidableEq, Repr, Inhabited

end Sys2Proof
end

