-- ==== Sys2Proof/Syntax.lean ====
section
/-!
DEFINITION. The instructions and events of the ZL-PM9: one constructor per row of the opcode table. A constructor that carries
`Op3` or `OpL` has an instruction word (R63, R79); the others are the steps that the hardware or its surroundings take by
themselves, and they have no word.
-/
namespace Sys2Proof

/-- One step of the machine. -/
inductive Instr where
  /-- NOP (R74) -/
  | nop (o : Op3)
  /-- IADD (R98) -/
  | iadd (o : Op3)
  /-- ISUB (R98) -/
  | isub (o : Op3)
  /-- IMUL (R98) -/
  | imul (o : Op3)
  /-- IMULH (R98) -/
  | imulh (o : Op3)
  /-- IMAD (R98) -/
  | imad (o : Op3)
  /-- IMIN (R98) -/
  | imin (o : Op3)
  /-- IMAX (R98) -/
  | imax (o : Op3)
  /-- IABS (R98) -/
  | iabs (o : Op3)
  /-- SHL (R98) -/
  | shl (o : Op3)
  /-- SHR (R98) -/
  | shr (o : Op3)
  /-- SAR (R98) -/
  | sar (o : Op3)
  /-- AND (R98) -/
  | and (o : Op3)
  /-- OR (R98) -/
  | or (o : Op3)
  /-- XOR (R98) -/
  | xor (o : Op3)
  /-- LUT3 (R99) -/
  | lut3 (o : Op3)
  /-- POPC (R98) -/
  | popc (o : Op3)
  /-- CLZ (R98) -/
  | clz (o : Op3)
  /-- BREV (R98) -/
  | brev (o : Op3)
  /-- BFX (R99) -/
  | bfx (o : Op3)
  /-- BFI (R99) -/
  | bfi (o : Op3)
  /-- ISETP (R100) -/
  | isetp (o : Op3)
  /-- SEL (R100) -/
  | sel (o : Op3)
  /-- IDOT4 (R99) -/
  | idot4 (o : Op3)
  /-- FADD (R101) -/
  | fadd (o : Op3)
  /-- FSUB (R101) -/
  | fsub (o : Op3)
  /-- FMUL (R101) -/
  | fmul (o : Op3)
  /-- FMA (R101) -/
  | fma (o : Op3)
  /-- FMIN (R102) -/
  | fmin (o : Op3)
  /-- FMAX (R102) -/
  | fmax (o : Op3)
  /-- FSETP (R103) -/
  | fsetp (o : Op3)
  /-- FCLASS (R103) -/
  | fclass (o : Op3)
  /-- FRND (R101) -/
  | frnd (o : Op3)
  /-- FRCP (R104) -/
  | frcp (o : Op3)
  /-- FRSQ (R104) -/
  | frsq (o : Op3)
  /-- FSQRT (R104) -/
  | fsqrt (o : Op3)
  /-- FEXP2 (R104) -/
  | fexp2 (o : Op3)
  /-- FLOG2 (R104) -/
  | flog2 (o : Op3)
  /-- FSIN (R104) -/
  | fsin (o : Op3)
  /-- FCOS (R104) -/
  | fcos (o : Op3)
  /-- FSCALE (R101) -/
  | fscale (o : Op3)
  /-- HADD2 (R105) -/
  | hadd2 (o : Op3)
  /-- HMUL2 (R105) -/
  | hmul2 (o : Op3)
  /-- HFMA2 (R105) -/
  | hfma2 (o : Op3)
  /-- CVT (R106) -/
  | cvt (o : Op3)
  /-- QNT48 (R107) -/
  | qnt48 (o : Op3)
  /-- MOV (R108) -/
  | mov (o : Op3)
  /-- MOVI (R108) -/
  | movi (o : OpL)
  /-- SREAD (R109) -/
  | sread (o : Op3)
  /-- SREAD_CLR (R29) -/
  | sreadClr (o : Op3)
  /-- VOTE (R110) -/
  | vote (o : Op3)
  /-- WRED (R111) -/
  | wred (o : Op3)
  /-- WSCAN (R112) -/
  | wscan (o : Op3)
  /-- PLOP (R113) -/
  | plop (o : Op3)
  /-- XSET (R114) -/
  | xset (o : Op3)
  /-- XWIN (R115) -/
  | xwin (o : Op3)
  /-- XADD (R114) -/
  | xadd (o : Op3)
  /-- REP (R117) -/
  | rep (o : Op3)
  /-- DQPOP (R131) -/
  | dqpop (o : Op3)
  /-- LD (R123) -/
  | ld (o : Op3)
  /-- ST (R124) -/
  | st (o : Op3)
  /-- LDS (R123) -/
  | lds (o : Op3)
  /-- STS (R124) -/
  | sts (o : Op3)
  /-- ATOM (R126) -/
  | atom (o : Op3)
  /-- ATOMS (R126) -/
  | atoms (o : Op3)
  /-- RED (R126) -/
  | red (o : Op3)
  /-- FENCE (R127) -/
  | fence (o : Op3)
  /-- FENCEX (R128) -/
  | fencex (o : Op3)
  /-- PREF (R129) -/
  | pref (o : Op3)
  /-- CCTL (R130) -/
  | cctl (o : Op3)
  /-- BRA (R133) -/
  | bra (o : OpL)
  /-- BRU (R134) -/
  | bru (o : OpL)
  /-- BRX (R133) -/
  | brx (o : Op3)
  /-- CALL (R133) -/
  | call (o : OpL)
  /-- RET (R133) -/
  | ret (o : Op3)
  /-- EXIT (R135) -/
  | exit (o : Op3)
  /-- HITCH (R137) -/
  | hitch (o : Op3)
  /-- BAR (R138) -/
  | bar (o : Op3)
  /-- BAR_ARV (R138) -/
  | barArv (o : Op3)
  /-- ROLE (R139) -/
  | role (o : Op3)
  /-- ROLE_GRANT (R16) -/
  | roleGrant (core slot warp : Nat)
  /-- FBP (R140) -/
  | fbp (o : Op3)
  /-- YIELD (R141) -/
  | yield (o : Op3)
  /-- TRAP (R141) -/
  | trap (o : Op3)
  /-- RACC (R144) -/
  | racc (o : Op3)
  /-- RFIRST (R145) -/
  | rfirst (o : Op3)
  /-- RSIG_GUESSED (R143) -/
  | rsigGuessed (o : Op3)
  /-- RSIG_EXIT (R143) -/
  | rsigExit (o : Op3)
  /-- RJOIN (R142) -/
  | rjoin (o : Op3)
  /-- DADD (R148) -/
  | dadd (o : Op3)
  /-- DSUB (R148) -/
  | dsub (o : Op3)
  /-- DMUL (R148) -/
  | dmul (o : Op3)
  /-- DMULH (R148) -/
  | dmulh (o : Op3)
  /-- DDIV (R148) -/
  | ddiv (o : Op3)
  /-- DAND (R148) -/
  | dand (o : Op3)
  /-- DOR (R148) -/
  | dor (o : Op3)
  /-- DXOR (R148) -/
  | dxor (o : Op3)
  /-- DSHL (R148) -/
  | dshl (o : Op3)
  /-- DSHR (R148) -/
  | dshr (o : Op3)
  /-- DSAR (R148) -/
  | dsar (o : Op3)
  /-- DSET (R149) -/
  | dset (o : Op3)
  /-- DSEL (R149) -/
  | dsel (o : Op3)
  /-- DMOVI (R149) -/
  | dmovi (o : OpL)
  /-- DLD (R151) -/
  | dld (o : Op3)
  /-- DST (R151) -/
  | dst (o : Op3)
  /-- DATOM (R152) -/
  | datom (o : Op3)
  /-- DLDS (R151) -/
  | dlds (o : Op3)
  /-- DSTS (R151) -/
  | dsts (o : Op3)
  /-- DBRA (R154) -/
  | dbra (o : OpL)
  /-- DCALL (R154) -/
  | dcall (o : OpL)
  /-- DRET (R154) -/
  | dret (o : Op3)
  /-- DEND (R155) -/
  | dend (o : Op3)
  /-- DSREAD (R150) -/
  | dsread (o : Op3)
  /-- DFENCE (R153) -/
  | dfence (o : Op3)
  /-- DQPUSH (R156) -/
  | dqpush (o : Op3)
  /-- DBAR (R157) -/
  | dbar (o : Op3)
  /-- DBAR_ARV (R157) -/
  | dbarArv (o : Op3)
  /-- DHASH (R149) -/
  | dhash (o : Op3)
  /-- DBIT (R149) -/
  | dbit (o : Op3)
  /-- MMA (R162) -/
  | mma (o : Op3)
  /-- MMAG (R164) -/
  | mmag (o : Op3)
  /-- SCACC (R165) -/
  | scacc (o : Op3)
  /-- DRAIN (R166) -/
  | drain (o : Op3)
  /-- ACLR (R167) -/
  | aclr (o : Op3)
  /-- ALD (R168) -/
  | ald (o : Op3)
  /-- AST (R168) -/
  | ast (o : Op3)
  /-- ATTN (R170) -/
  | attn (o : Op3)
  /-- ATMERGE (R171) -/
  | atmerge (o : Op3)
  /-- ATNORM (R172) -/
  | atnorm (o : Op3)
  /-- COPY (R173) -/
  | copy (o : Op3)
  /-- COPYX (R174) -/
  | copyx (o : Op3)
  /-- BFENCE (R175) -/
  | bfence (o : Op3)
  /-- BWAIT (R176) -/
  | bwait (o : Op3)
  /-- EVPOP (R178) -/
  | evpop (o : Op3)
  /-- BATCH_COMPLETION (R177) -/
  | batchCompletion (core slot batch : Nat)
  /-- LAUNCH (R179) -/
  | launch (o : Op3)
  /-- KVFIND_LOOK (R184) -/
  | kvfindLook (o : Op3)
  /-- KVFIND_REF (R184) -/
  | kvfindRef (o : Op3)
  /-- KVFIND_UNREF (R184) -/
  | kvfindUnref (o : Op3)
  /-- KVINS (R185) -/
  | kvins (o : Op3)
  /-- KVAPP (R186) -/
  | kvapp (o : Op3)
  /-- KVTRIM (R187) -/
  | kvtrim (o : Op3)
  /-- KVOWN (R188) -/
  | kvown (o : Op3)
  /-- KVPULL (R189) -/
  | kvpull (o : Op3)
  /-- WSREF (R192) -/
  | wsref (o : Op3)
  /-- WSSWAP (R193) -/
  | wsswap (o : Op3)
  /-- WSBCAST (R194) -/
  | wsbcast (o : Op3)
  /-- WSBCAST_RECEIVE (R194) -/
  | wsbcastReceive (vf entry version : Nat) (data : Received)
  /-- WSPULL (R195) -/
  | wspull (o : Op3)
  /-- OBJNEW (R197) -/
  | objnew (o : Op3)
  /-- OBJOPEN (R197) -/
  | objopen (o : Op3)
  /-- OBJHAND (R197) -/
  | objhand (o : Op3)
  /-- OBJDROP (R197) -/
  | objdrop (o : Op3)
  /-- OBJSYNC (R197) -/
  | objsync (o : Op3)
  /-- RELAY (R198) -/
  | relay (o : Op3)
  /-- RELAY_BEGIN (R198) -/
  | relayBegin (core slot : Nat)
  /-- RWAIT (R199) -/
  | rwait (o : Op3)
  /-- SWRITE (R201) -/
  | swrite (o : Op3)
  /-- RTT (R294) -/
  | rtt (o : Op3)
  /-- CTXSAVE (R200) -/
  | ctxsave (o : Op3)
  /-- CTXLOAD (R200) -/
  | ctxload (o : Op3)
  /-- TLBINV_PG (R247) -/
  | tlbinvPg (o : Op3)
  /-- TLBINV_VF (R247) -/
  | tlbinvVf (o : Op3)
  /-- TLBINV_ALL (R247) -/
  | tlbinvAll (o : Op3)
  /-- L2OP_WB (R200) -/
  | l2opWb (o : Op3)
  /-- L2OP_INV (R200) -/
  | l2opInv (o : Op3)
  /-- L2OP_WBI (R200) -/
  | l2opWbi (o : Op3)
  /-- L2OP_VFWB (R200) -/
  | l2opVfwb (o : Op3)
  /-- HALT (R200) -/
  | halt (o : Op3)
  /-- QCLAIM (R202) -/
  | qclaim (o : Op3)
  /-- WGSTART (R200) -/
  | wgstart (o : Op3)
  /-- SCRUB (R203) -/
  | scrub (o : Op3)
  /-- DRAINT (R203) -/
  | draint (o : Op3)
  /-- PWRSET (R346) -/
  | pwrset (o : Op3)
  /-- STRSET (R201) -/
  | strset (o : Op3)
  /-- GATE_NOW (R349) -/
  | gateNow (o : Op3)
  /-- GATE_WAKE (R350) -/
  | gateWake (o : Op3)
  /-- GATE_HOLD (R350) -/
  | gateHold (o : Op3)
  /-- GATE_AUTO (R350) -/
  | gateAuto (o : Op3)
  /-- RTCALL_MEASURE (R369) -/
  | rtcallMeasure (o : Op3)
  /-- RTCALL_VERIFY (R369) -/
  | rtcallVerify (o : Op3)
  /-- RTCALL_QUOTE (R369) -/
  | rtcallQuote (o : Op3)
  /-- RTCALL_MARGIN_SIGNATURE (R369) -/
  | rtcallMarginSignature (o : Op3)
  /-- WARP_PROMOTION (R214) -/
  | warpPromotion (core slot warp : Nat)
  /-- PINWAIT_EXPIRY (R229) -/
  | pinwaitExpiry (core slot : Nat) (agent : AgentId)
  /-- PARKED_RESTORE_TIMEOUT (R332) -/
  | parkedRestoreTimeout (core index : Nat)
  /-- TIMER_DEADLINE (R338) -/
  | timerDeadline (core slot : Nat)
  /-- SLICE_END (R342) -/
  | sliceEnd (string : Nat)
  /-- STRING_BEAT (R262) -/
  | stringBeat (string : Nat)
  /-- STRIMB_UPDATE (R347) -/
  | strimbUpdate (string : Nat) (node0 node1 node2 : Byte)
  /-- AUTO_GATE (R349) -/
  | autoGate (string : Nat)
  /-- GATING_SEQUENCE_END (R350) -/
  | gatingSequenceEnd (string : Nat)
  /-- WAKE_COMPLETE (R350) -/
  | wakeComplete (string : Nat)
  /-- SRAM_RAIL_WINDOW (R351) -/
  | sramRailWindow (corrected : Nat)
  /-- RAIL_HOLD_END (R352) -/
  | railHoldEnd
  /-- CORE_LOSS (R359) -/
  | coreLoss (core : Nat)
  /-- AFFINITY_STEAL (R311) -/
  | affinitySteal (queue index thief : Nat)
  /-- QUEUE_NOTIFY (R296) -/
  | queueNotify (vf q : Nat) (t : W32)
  /-- VF_PAUSE_WRITE (R340) -/
  | vfPauseWrite (vf : Nat) (pause : Bool)
  /-- VF_TIME_WRITE (R337) -/
  | vfTimeWrite (vf : Nat) (v : W64)
  /-- VF_QTAIL_WRITE (R340) -/
  | vfQtailWrite (vf q : Nat) (t : W32)
  /-- REGISTER_WRITE (R9) -/
  | registerWrite (fn off : Nat) (v : W64)
  /-- FLR_REQUEST (R362) -/
  | flrRequest (vf : Nat)
  /-- HOST_CXL_MEM_ACCESS (R236) -/
  | hostCxlMemAccess (x : HostAccess)
  /-- HOST_CXL_CACHE_ACCESS (R236) -/
  | hostCxlCacheAccess (x : HostAccess)
  /-- TOWPATH_PEER_ACCESS (R236) -/
  | towpathPeerAccess (x : HostAccess)
  /-- FLIT_RECEIVE (R367) -/
  | flitReceive (port seq : Nat) (payload : List Byte) (crcOk room : Bool)
  /-- NAK_RECEIVE (R367) -/
  | nakReceive (port seq : Nat)
  /-- FLIT_RETRY_TIMER (R367) -/
  | flitRetryTimer (port seq : Nat)
  /-- TOWPATH_TIMEOUT (R367) -/
  | towpathTimeout (core slot : Nat)
  /-- BRING_UP (R370) -/
  | bringUp
  /-- CHARGE_RECORD_UPDATE (R348) -/
  | chargeRecordUpdate
  /-- OPERATING_POINT_REACHED (R346) -/
  | operatingPointReached (rail : Nat)
  /-- REGION_TEARDOWN (R307) -/
  | regionTeardown (vf : Nat) (rcb : W64)
  /-- STRING_LEAVES_REGION (R313) -/
  | stringLeavesRegion (string vf : Nat) (rcb : W64)
  deriving DecidableEq, Repr, Inhabited

end Sys2Proof
end

