-- ==== Sys2Proof/WellFormed.lean ====
section
/-!
DEFINITION. Which decoded words are instructions: step 4 of R80, opcode by opcode (R64 to R78 and the instruction chapters).
`Instr.wf` is false exactly for the words that fault with ILL at that step.
-/
namespace Sys2Proof

/-! Crossbar selectors and operand kinds -/

/-- The parameter k is legal for its pattern (R67). -/
def Xbar.ok : Xbar → Bool
  | .mir k => 1 ≤ k.toNat && k.toNat ≤ 5
  | .bcs k => k.toNat ≤ 3
  | _ => true

/-- A register operand, direct or indexed, with a legal selector. -/
def Opnd.isReg : Opnd → Bool
  | .vreg _ x => x.ok
  | .vidx _ _ x => x.ok
  | _ => false

/-- A register, direct or indexed, with the identity selector: a v destination (R67). -/
def Opnd.isDestReg : Opnd → Bool
  | .vreg _ .id => true
  | .vidx _ _ .id => true
  | _ => false

/-- A v destination or class 5 (R96). -/
def Opnd.isDest (o : Opnd) : Bool := o.isDestReg || o == .zero

/-- Register direct, with any legal selector. -/
def Opnd.isV : Opnd → Bool
  | .vreg _ x => x.ok
  | _ => false

/-- Register direct with the identity selector. -/
def Opnd.isDirect : Opnd → Bool
  | .vreg _ .id => true
  | _ => false

/-- Register direct with the identity selector and a register number that is a multiple of `m` (R76). -/
def Opnd.isAligned (m : Nat) : Opnd → Bool
  | .vreg n .id => n.toNat % m == 0
  | _ => false

/-- A general warp source: register, short immediate or class 5 (R96). -/
def Opnd.isSrc (o : Opnd) : Bool :=
  match o with
  | .imm _ => true
  | .zero => true
  | _ => o.isReg

/-- A predicate operand: class 0 or class 5. -/
def Opnd.isPred : Opnd → Bool
  | .pred _ => true
  | .zero => true
  | _ => false

/-- Class 2. -/
def Opnd.isD : Opnd → Bool
  | .dreg _ => true
  | _ => false

/-- Class 2 or class 5 (R147). -/
def Opnd.isDZ : Opnd → Bool
  | .dreg _ => true
  | .zero => true
  | _ => false

/-- Class 2, short immediate or class 5 (R147). -/
def Opnd.isDSrc : Opnd → Bool
  | .dreg _ => true
  | .imm _ => true
  | .zero => true
  | _ => false

/-- Class 2 or a short immediate (R200). -/
def Opnd.isSys : Opnd → Bool
  | .dreg _ => true
  | .imm _ => true
  | _ => false

/-- Class 1. -/
def Opnd.isTile : Opnd → Bool
  | .tile _ => true
  | _ => false

/-- Class 4. -/
def Opnd.isSlot : Opnd → Bool
  | .slot _ => true
  | _ => false

/-- Class 3. -/
def Opnd.isX : Opnd → Bool
  | .xreg _ => true
  | _ => false

/-- A short immediate whose zero-extended value lies in lo to hi. -/
def Opnd.isImmIn (lo hi : Nat) : Opnd → Bool
  | .imm v => lo ≤ v.toNat && v.toNat ≤ hi
  | _ => false

/-- A short immediate whose sign-extended value lies in lo to hi. -/
def Opnd.isSImmIn (lo hi : Int) : Opnd → Bool
  | .imm v => lo ≤ v.toInt && v.toInt ≤ hi
  | _ => false

/-- The field is the all-zero field (R71). -/
def Opnd.isNone (o : Opnd) : Bool := o == Opnd.unused

/-- An I8X4 immediate has bits [15:8] zero (R69). -/
def Opnd.i8x4Ok : Opnd → Bool
  | .imm v => v.toNat < 256
  | _ => true

/-! Fields of VAR and XT -/

/-- VAR[3:0]: TYPE, or FMT (R75, R78). -/
def Op3.typ (o : Op3) : Nat := o.var.toNat % 16
/-- VAR[5:4]: RND, or ORD. -/
def Op3.rnd (o : Op3) : Nat := o.var.toNat / 16 % 4
/-- VAR[6]: SAT. -/
def Op3.sat (o : Op3) : Bool := o.var.getLsbD 6
/-- VAR[7:6]: SCOPE. -/
def Op3.scope (o : Op3) : Nat := o.var.toNat / 64
/-- VAR[6:4]: COND (R100). -/
def Op3.cond (o : Op3) : Nat := o.var.toNat / 16 % 8
/-- XT[85 + k]. -/
def Op3.xtBit (o : Op3) (k : Nat) : Bool := o.xt.getLsbD k
/-- XT[87:85]: CPOL, ROP or LEG. -/
def Op3.cpol (o : Op3) : Nat := o.xt.toNat % 8
/-- XT[91:88]: AOP (R77). -/
def Op3.aop (o : Op3) : Nat := o.xt.toNat / 8 % 16
/-- XT[92]: SGN (R125). -/
def Op3.sgn (o : Op3) : Bool := o.xt.getLsbD 7

/-! Guards, reuse hints and streams -/

/-- GRD is 0111 or 1111 (R22, R64). -/
def Ctl.always (c : Ctl) : Bool := c.grd.toNat % 8 == 7

/-- Reuse hints ask only for register fields (R72); `ua` and `ub` say that the opcode uses the field. -/
def Op3.ruOk (o : Op3) (ua ub : Bool) : Bool :=
  (!o.ctl.ru.getLsbD 0 || (ua && o.a.isReg)) && (!o.ctl.ru.getLsbD 1 || (ub && o.b.isReg))

/-- A warp word without a stream whose A and B are used as said. -/
def Op3.warp (o : Op3) (ua ub : Bool) : Bool := o.sid == 0 && o.ruOk ua ub

/-- A warp word whose guard must be 0111 or 1111 (R116, R132). -/
def Op3.warpAlways (o : Op3) (ua ub : Bool) : Bool := o.warp ua ub && o.ctl.always

/-- A driver or ostler word without a stream (R147). -/
def Op3.drv (o : Op3) : Bool := o.sid == 0 && o.ctl.ru == 0 && o.ctl.always

/-- A driver word with a stream (R73). -/
def Op3.drvStream (o : Op3) : Bool := o.ctl.ru == 0 && o.ctl.always

/-- No operand is used. -/
def Op3.noOpnds (o : Op3) : Bool := o.d.isNone && o.a.isNone && o.b.isNone

/-! Families of the warp stream -/

/-- Two-source arithmetic in the layout of R78 without modifiers; `types` lists the TYPE values, `sat` allows VAR[6]. -/
def Op3.int2 (o : Op3) (types : List Nat) (sat : Bool) : Bool :=
  o.warp true true && o.d.isDest && o.a.isSrc && o.b.isSrc && o.xt == 0 && types.contains o.typ
    && o.rnd == 0 && !o.var.getLsbD 7 && (sat || !o.sat)

/-- One-source arithmetic in the layout of R78 without modifiers. -/
def Op3.int1 (o : Op3) (types : List Nat) (sat : Bool) : Bool :=
  o.warp true false && o.d.isDest && o.a.isSrc && o.b.isNone && o.xt == 0 && types.contains o.typ
    && o.rnd == 0 && !o.var.getLsbD 7 && (sat || !o.sat)

/-- Float opcodes with the modifiers of R78; `typ` is the TYPE, `negc` allows XT[89] (R101). -/
def Op3.flt2 (o : Op3) (typ : Nat) (negc rnd : Bool) : Bool :=
  o.warp true true && o.d.isDest && o.a.isSrc && o.b.isSrc && o.typ == typ && !o.sat && !o.var.getLsbD 7
    && o.xt.toNat < (if negc then 32 else 16) && (rnd || o.rnd == 0)

/-- One-source float opcodes: ABSA and NEGA apply, ABSB and NEGB are 0 (R101, R103, R104). -/
def Op3.flt1 (o : Op3) (rnd : Bool) : Bool :=
  o.warp true false && o.d.isDest && o.a.isSrc && o.b.isNone && o.typ == 2 && !o.sat && !o.var.getLsbD 7
    && !o.xtBit 1 && !o.xtBit 3 && o.xt.toNat < 16 && (rnd || o.rnd == 0)

/-- The type codes of `cvt` that are integers (R106). -/
def cvtInt (t : Nat) : Bool := t == 0 || t == 1 || (7 ≤ t && t ≤ 10)

def Op3.cvtOk (o : Op3) : Bool :=
  o.warp true false && o.d.isDest && o.a.isSrc && o.b.isNone && o.xt.toNat < 16 && o.xt.toNat ≤ 10 && o.typ ≤ 10
    && o.xt.toNat != o.typ && !o.var.getLsbD 7 && (!o.sat || (cvtInt o.typ && cvtInt o.xt.toNat))

/-- The special-register identifiers of R27. -/
def sregKnown (id : Nat) : Bool := id ≤ 0x19 || (0x80 ≤ id && id ≤ 0x83)

def Op3.sregOk (o : Op3) : Bool :=
  match o.a with
  | .imm v => v.toNat < 256 && sregKnown v.toNat
  | _ => false

/-- The memory width of a format in registers (R76). -/
def fmtRegs (f : Nat) : Nat := if f == 5 then 2 else if f == 6 then 4 else 1

/-- ORD and CPOL of a load or store (R75, R118). -/
def Op3.accOk (o : Op3) (glob : Bool) : Bool :=
  o.ruOk true true && o.b.isSrc && o.rnd ≤ 1 && o.xt.toNat < 8 && o.typ ≤ 12
    && (if glob then o.cpol ≤ 2 else o.cpol == 0 && o.scope ≤ 1)

/-- The data register of a load or store: a v register aligned to its format (R76). -/
def Op3.dataOk (o : Op3) (m : Nat) : Bool := o.d.isDestReg && (o.d.isAligned m || !o.d.isDirect)

/-- The A field of a scratchpad opcode: one direct register or a handle (R118). -/
def Op3.scrA (o : Op3) : Bool := o.a.isDirect || o.a.isSlot

/-- The pairing of AOP, SGN and FMT of an atomic (R125); `exch` allows exch and cas. -/
def aopOk (aop : Nat) (sgn : Bool) (fmt : Nat) (exch : Bool) : Bool :=
  (!sgn || aop == 1 || aop == 2) &&
  (if aop ≤ 5 then fmt == 4 || fmt == 5
   else if aop ≤ 7 then exch && (fmt == 4 || fmt == 5)
   else if aop == 8 then fmt == 4
   else if aop == 9 then fmt == 11
   else (aop == 10 || aop == 11) && fmt == 4)

/-- Registers that the data of an atomic takes (R125): cas takes two values. -/
def atomRegs (aop fmt : Nat) : Nat := fmtRegs fmt * (if aop == 7 then 2 else 1)

def Op3.atomOk (o : Op3) (glob exch : Bool) : Bool :=
  o.ruOk true true && o.b.isSrc && (o.rnd == 0 || o.rnd == 2) && o.xt.toNat < 256 && aopOk o.aop o.sgn o.typ exch
    && (if glob then o.cpol ≤ 2 else o.cpol == 0 && o.scope ≤ 1) && o.dataOk (atomRegs o.aop o.typ)

/-- `fence` and `dfence` (R127, R153): VAR[5:4] = 10, VAR[3:0] = 0, B a short immediate. -/
def Op3.fenceOk (o : Op3) : Bool :=
  o.var.toNat % 64 == 32 && o.xt == 0 && o.d.isNone && o.a.isNone && o.b.isImmIn 0 0xFFFF

/-- `pref` and `cctl` (R129, R130). -/
def Op3.hintOk (o : Op3) (maxVar : Nat) : Bool :=
  o.ruOk true true && o.var.toNat ≤ maxVar && o.xt == 0 && o.d == .zero && o.a.isAligned 2 && o.b.isSrc

/-- The control opcodes that use A as an immediate only (R132). -/
def Op3.ctlImm (o : Op3) (hi : Nat) : Bool :=
  o.sid == 0 && o.ruOk false false && o.xt == 0 && o.d.isNone && o.b.isNone && o.a.isImmIn 0 hi

def Op3.ctlPlain (o : Op3) : Bool := o.sid == 0 && o.ruOk false false && o.xt == 0 && o.noOpnds

/-! Long-immediate words -/

def OpL.branch (o : OpL) : Bool := o.d == .zero && o.sid == 0 && o.ctl.ru == 0

/-! Families of the driver and ostler streams -/

/-- Two-source driver arithmetic (R148); VAR is at most `maxVar`. -/
def Op3.drv2 (o : Op3) (maxVar : Nat) : Bool :=
  o.drv && o.var.toNat ≤ maxVar && o.xt == 0 && o.d.isDZ && o.a.isDSrc && o.b.isDSrc

/-- A driver load or store (R151): its offset B is a short immediate or class 2, and no other kind. CPOL is as R75 has it in the
scratchpad forms too, where it says nothing. -/
def Op3.dmemOk (o : Op3) (glob : Bool) : Bool :=
  o.drvStream && o.d.isDZ && o.b.isSys && o.rnd ≤ 1 && o.xt.toNat < 8 && o.typ ≤ 5
    && o.cpol ≤ 2 && (if glob then o.a.isD else (o.a.isD || o.a.isSlot) && o.scope ≤ 1)

def Op3.datomOk (o : Op3) : Bool :=
  o.drvStream && o.a.isD && o.b.isDSrc && (o.rnd == 0 || o.rnd == 2) && o.xt.toNat < 256 && o.cpol ≤ 2
    && (o.typ == 4 || o.typ == 5) && o.aop != 9 && aopOk o.aop o.sgn o.typ true
    && (if o.aop == 7 then (match o.d with | .dreg n => n.toNat ≤ 30 | _ => false) else o.d.isDZ)

/-- An engine or system word of the given operand kinds, VAR at most `maxVar`. -/
def Op3.cmd (o : Op3) (maxVar : Nat) : Bool := o.drv && o.var.toNat ≤ maxVar && o.xt == 0

/-- A register dN with `k` parameter words after it inside d31 (R66). -/
def Opnd.isDParam (k : Nat) : Opnd → Bool
  | .dreg n => n.toNat + k ≤ 31
  | _ => false

/-- Weight-set entry index: class 2, or a short immediate 0–255 (R191). -/
def Opnd.isWs : Opnd → Bool
  | .dreg _ => true
  | .imm v => v.toNat < 256
  | _ => false

/-- A system word: D class 2 or 5, no VAR beyond `maxVar` (R200). -/
def Op3.sys (o : Op3) (maxVar : Nat) : Bool := o.cmd maxVar && o.d.isDZ

/-- The word is an instruction: it passes step 4 of R80. Events have no word and are always well formed. -/
def Instr.wf : Instr → Bool
  | .nop o => o.ctlPlain && o.var == 0 && o.ctl.ru == 0
  | .iadd o | .isub o | .imul o => o.int2 [0, 1] true
  | .imulh o => o.int2 [0, 1] false
  | .imad o => o.int2 [0, 1] true
  | .imin o | .imax o => o.int2 [0, 1] false
  | .iabs o => o.int1 [0] true
  | .shl o | .shr o | .sar o | .and o | .or o | .xor o => o.int2 [0] false
  | .lut3 o => o.warp true true && o.d.isDest && o.a.isSrc && o.b.isSrc && o.xt == 0
  | .popc o | .clz o | .brev o => o.int1 [0] false
  | .bfx o => o.int2 [0, 1] false
  | .bfi o => o.int2 [0] false
  | .isetp o => o.warp true true && o.d.isPred && o.a.isSrc && o.b.isSrc && o.xt == 0 && !o.var.getLsbD 7
      && o.cond ≤ 5 && o.typ ≤ 1
  | .sel o => o.warp true true && o.d.isDest && o.a.isSrc && o.b.isSrc && o.var == 0 && o.xt.toNat < 16
  | .idot4 o => o.int2 [4] true && o.a.i8x4Ok && o.b.i8x4Ok
  | .fadd o | .fsub o | .fmul o => o.flt2 2 false true
  | .fma o => o.flt2 2 true true
  | .fmin o | .fmax o => o.flt2 2 false false
  | .fsetp o => o.warp true true && o.d.isPred && o.a.isSrc && o.b.isSrc && o.xt.toNat < 16 && !o.var.getLsbD 7 && o.typ == 2
  | .fclass o => o.flt1 false
  | .frnd o | .frcp o | .frsq o | .fsqrt o | .fexp2 o | .flog2 o | .fsin o | .fcos o => o.flt1 true
  | .fscale o => o.flt2 2 false true && !o.xtBit 1 && !o.xtBit 3
  | .hadd2 o | .hmul2 o => o.flt2 3 false true
  | .hfma2 o => o.flt2 3 true true
  | .cvt o => o.cvtOk
  | .qnt48 o => o.warp true false && o.var == 0 && o.xt == 0 && o.d.isDirect && o.a.isDirect && o.b.isNone
  | .mov o => o.warp true false && o.var == 0 && o.xt == 0 && (o.d.isDest || o.d.isPred) && (o.a.isSrc || o.a.isPred)
      && o.b.isNone
  | .movi o => o.var == 0 && o.xt == 0 && o.sid == 0 && o.ctl.ru == 0 && o.d.isDest
  | .sread o => o.warp false false && o.var == 0 && o.xt == 0 && o.d.isDest && o.sregOk && o.b.isNone
  | .sreadClr o => o.warp false false && o.var == 1 && o.xt == 0 && o.d.isDest && o.a == .imm 0x14 && o.b.isNone
  | .vote o => o.warp false false && o.var.toNat < 8 && o.xt == 0 && o.a.isPred && o.b.isNone
      && (if o.var.toNat % 4 == 3 then o.d.isDest else o.d.isPred)
  | .wred o => o.warp true false && o.var.toNat ≤ 2 && o.xt.toNat ≤ (if o.typ == 2 then 2 else 5) && o.d.isDest && o.a.isSrc
      && o.b.isNone
  | .wscan o => o.warp true false && o.var.toNat % 128 ≤ 2 && o.xt.toNat ≤ (if o.typ == 2 then 2 else 5) && o.d.isDest
      && o.a.isSrc && o.b.isNone
  | .plop o => o.warp false false && o.var.toNat < 16 && o.xt == 0 && o.d.isPred && o.a.isPred && o.b.isPred
  | .xset o | .xadd o => o.warp true false && o.var == 0 && o.xt == 0 && o.d.isX && o.a.isSrc && o.b.isNone
  | .xwin o => o.warp false false && o.var == 0 && o.xt == 0 && o.d.isX && o.a.isImmIn 0 255 && o.b.isImmIn 0 256
  | .rep o => o.warpAlways false false && o.var.toNat < 8 && o.xt == 0 && o.d.isNone && o.a.isImmIn 0 64
      && o.b.isSImmIn (-255) 255
  | .dqpop o => o.warp false false && o.var == 0 && o.xt == 0 && (o.d.isAligned 2 || o.d == .zero) && o.a.isNone && o.b.isNone
  | .ld o | .st o => o.accOk true && o.dataOk (fmtRegs o.typ) && o.a.isAligned 2
  | .lds o | .sts o => o.accOk false && o.dataOk (fmtRegs o.typ) && o.scrA
  | .atom o => o.atomOk true true && o.a.isAligned 2
  | .atoms o => o.atomOk false true && o.scrA
  | .red o => o.atomOk true false && o.a.isAligned 2
  | .fence o => o.ruOk false false && o.fenceOk
  | .fencex o => o.warp false false && o.var.toNat % 64 == 32 && o.xt == 0 && o.d.isNone && o.a.isImmIn 1 0xFFFF
      && o.b.isImmIn 1 0xFFFF
  | .pref o => o.hintOk 1
  | .cctl o => o.hintOk 1
  | .bra o | .bru o => o.branch && o.var == 0 && o.xt == 0
  | .call o => o.branch && o.var == 0 && o.xt.toNat < 256 && o.xt.toNat % 2 == 0
  | .brx o | .ret o => o.warp true false && o.var == 0 && o.xt == 0 && o.d.isNone && o.a.isAligned 2 && o.b.isNone
  | .exit o => o.ctlPlain && o.var == 0
  | .hitch o => o.ctlPlain && o.var == 0 && o.ctl.always
  | .bar o => o.ctlImm 15 && o.var == 0 && o.ctl.always
  | .barArv o => o.ctlImm 15 && o.var == 1 && o.ctl.always
  | .role o => o.ctlImm 3 && o.var == 0 && o.ctl.always
  | .fbp o => o.ctlImm 255 && o.var == 0 && o.ctl.always
  | .yield o => o.ctlPlain && o.var == 0
  | .trap o => o.ctlImm 0xFFFF && o.var == 0
  | .racc o => o.warpAlways false (o.var == 1) && o.xt == 0 && o.d.isNone && o.a.isNone
      && (if o.var == 0 then o.b.isNone else if o.var == 1 then o.b.isV else o.var == 2 && o.b.isImmIn 0 0xFFFF)
  | .rfirst o => o.warpAlways false false && o.var == 0 && o.xt == 0 && o.d.isDest && o.a.isPred && o.b.isNone
  | .rsigGuessed o => o.ctlPlain && o.var == 0 && o.ctl.always
  | .rsigExit o => o.ctlPlain && o.var == 1
  | .rjoin o => o.ctlPlain && o.var == 0 && o.ctl.always
  | .dadd o | .dsub o | .dmul o | .dand o | .dor o | .dxor o | .dshl o | .dshr o | .dsar o => o.drv2 0
  | .dmulh o => o.drv2 1
  | .ddiv o => o.drv2 3
  | .dset o => o.drv && o.xt == 0 && o.d.isDZ && o.a.isDSrc && o.b.isDSrc && !o.var.getLsbD 7 && o.cond ≤ 5 && o.typ ≤ 1
  | .dsel o => o.drv && o.var == 0 && o.xt.toNat < 32 && o.d.isDZ && o.a.isDSrc && o.b.isDSrc
  | .dmovi o => o.var.toNat ≤ 2 && o.xt == 0 && o.sid == 0 && o.ctl.ru == 0 && o.ctl.always && o.d.isDZ
  | .dld o | .dst o => o.dmemOk true
  | .datom o => o.datomOk
  | .dlds o | .dsts o => o.dmemOk false
  | .dbra o => o.branch && o.ctl.always && o.var == 0 && o.xt.toNat < 128 && o.xt.toNat / 32 ≤ 2
      && (o.xt.toNat / 32 != 0 || o.xt == 0)
  | .dcall o => o.branch && o.ctl.always && o.var == 0 && o.xt.toNat < 32
  | .dret o => o.cmd 0 && o.d.isNone && o.a.isD && o.b.isNone
  | .dend o => o.cmd 0 && o.noOpnds && o.ctl.yld == 0
  | .dsread o => o.cmd 0 && o.d.isDZ && o.sregOk && o.b.isNone
  | .dfence o => o.drvStream && o.fenceOk
  | .dqpush o => o.cmd 0 && o.d.isNone && o.a.isDSrc && o.b.isNone
  | .dbar o => o.drv && o.ctlImm 15 && o.var == 0
  | .dbarArv o => o.drv && o.ctlImm 15 && o.var == 1
  | .dhash o => o.cmd 1 && o.d.isDZ && o.a.isDSrc && (if o.var == 1 then o.b.isNone else o.b.isDSrc)
  | .dbit o => o.cmd 3 && o.d.isDZ && o.a.isDSrc && (if o.var == 3 then o.b.isDSrc else o.b.isNone)
  | .mma o => o.cmd 15 && o.var.toNat % 4 != 3 && o.d.isTile && o.a.isD && o.b.isD
  | .mmag o => o.drv && o.var.toNat < 16 && o.var.toNat % 4 != 3 && !o.var.getLsbD 2 && o.d.isTile && o.a.isD && o.b.isD
  | .scacc o => o.cmd 1 && o.d.isTile && o.a.isTile && o.d != o.a && o.b.isD
  | .drain o => o.cmd 3 && o.d.isD && o.a.isTile && (if o.var.toNat < 2 then o.b.isD else o.b == .zero)
  | .aclr o => o.cmd 1 && o.d.isTile && o.a.isNone && o.b.isNone
  | .ald o => o.cmd 1 && o.d.isTile && o.a.isD && o.b.isDZ
  | .ast o => o.cmd 0 && o.d.isD && o.a.isTile && o.b.isDZ
  | .attn o => o.cmd 0 && o.d.isTile && o.a.isDParam 2 && o.b.isD
  | .atmerge o => o.cmd 0 && o.d.isTile && o.a.isTile && o.d != o.a && o.b.isNone
  | .atnorm o => o.cmd 1 && o.d.isD && o.a.isTile && o.b.isNone
  | .copy o => o.drvStream && o.xt == 0 && o.var.toNat / 4 % 16 == 0 && o.d.isD && o.a.isD && o.b.isDParam 1
      && (o.var.toNat % 4 != 3 || (o.scope == 0 && o.sid == 0))
  | .copyx o => o.drvStream && o.xt == 0 && o.var.toNat / 2 % 32 == 0 && o.d.isD && o.a.isD && o.b.isDParam 1
  | .bfence o | .bwait o => o.cmd 0 && o.d.isNone && o.a.isImmIn 0 15 && o.b.isNone
  | .evpop o => o.cmd 1 && o.d.isDZ && o.a.isNone && o.b.isNone
  | .launch o => o.cmd 0 && o.d.isDZ && o.a.isD && o.b.isDZ
  | .kvfindLook o => o.cmd 0 && o.d.isD && o.a.isD && o.b.isDParam 1
  | .kvfindRef o => o.cmd 1 && o.var == 1 && o.d.isD && o.a.isD && o.b.isDParam 1
  | .kvfindUnref o => o.cmd 2 && o.var == 2 && o.d.isD && o.a.isD && o.b.isDParam 1
  | .kvins o => o.cmd 0 && o.d.isD && o.a.isD && o.b.isDParam 2
  | .kvapp o => o.drv && o.var.toNat ≤ 3 && o.xt.toNat < 16 && (o.xtBit 3 || o.xt == 0) && o.d.isD && o.a.isD && o.b.isD
  | .kvtrim o => o.cmd 0 && o.d.isD && o.a.isSys && o.b.isNone
  | .kvown o => o.cmd 0 && o.d.isD && o.a.isD && o.b.isNone
  | .kvpull o => o.cmd 0 && o.d.isD && o.a.isD && o.b.isD
  | .wsref o => o.cmd 0 && o.d.isD && o.a.isWs && o.b.isNone
  | .wsswap o => o.cmd 0 && o.d.isNone && o.a.isWs && o.b.isD
  | .wsbcast o => o.cmd 0 && o.d.isNone && o.a.isWs && o.b.isDParam 1
  | .wspull o => o.cmd 0 && o.d.isNone && o.a.isWs && o.b.isD
  | .objnew o => o.cmd 3 && o.d.isSlot && o.a.isD && o.b.isD
  | .objopen o => o.cmd 1 && o.d.isSlot && o.a.isD && o.b.isNone
  | .objhand o => o.cmd 1 && o.d.isNone && o.a.isSlot && o.b.isDParam (if o.var == 1 then 1 else 0)
  | .objdrop o | .objsync o => o.cmd 0 && o.d.isNone && o.a.isSlot && o.b.isNone
  | .relay o => o.cmd 0 && o.d.isNone && o.a.isDParam 2 && o.b.isNone
  | .rwait o => o.cmd 0 && o.d.isDZ && o.a.isNone && o.b.isNone
  | .swrite o => o.cmd 0 && o.d.isNone && (o.a.isD || o.a.isImmIn 0 4) && o.b.isSys
  | .rtt o => o.sys 0 && o.a.isSys && o.b.isSys
  | .ctxsave o => o.sys 1 && o.a.isSys && o.b.isSys
  | .ctxload o => o.sys 0 && o.a.isSys && o.b.isSys
  | .tlbinvPg o => o.sys 0 && o.a.isSys && o.b.isSys
  | .tlbinvVf o => o.sys 1 && o.var == 1 && o.a.isSys && o.b.isSys
  | .tlbinvAll o => o.sys 2 && o.var == 2 && o.a.isSys && o.b.isSys
  | .l2opWb o => o.sys 0 && o.a.isSys && o.b.isSys
  | .l2opInv o => o.sys 1 && o.var == 1 && o.a.isSys && o.b.isSys
  | .l2opWbi o => o.sys 2 && o.var == 2 && o.a.isSys && o.b.isSys
  | .l2opVfwb o => o.sys 3 && o.var == 3 && o.a.isSys && o.b.isSys
  | .halt o => o.sys 0 && o.a.isNone && o.b.isSys
  | .qclaim o => o.sys 0 && o.a.isSys && o.b.isSys
  | .wgstart o => o.sys 0 && o.a.isSys && o.b.isSys
  | .scrub o | .draint o => o.sys 0 && o.a.isSys && o.b.isNone
  | .pwrset o => o.sys 0 && o.a.isSys && o.b.isSys
  | .strset o => o.sys 0 && o.a.isSys && o.b.isSys
  | .gateNow o => o.sys 0 && o.a.isSys && o.b.isNone
  | .gateWake o => o.sys 1 && o.var == 1 && o.a.isSys && o.b.isNone
  | .gateHold o => o.sys 2 && o.var == 2 && o.a.isSys && o.b.isNone
  | .gateAuto o => o.sys 3 && o.var == 3 && o.a.isSys && o.b.isNone
  | .rtcallMeasure o | .rtcallVerify o | .rtcallQuote o | .rtcallMarginSignature o => o.sys 0 && o.a.isSys && o.b.isSys
  | .roleGrant .. | .batchCompletion .. | .wsbcastReceive .. | .relayBegin .. | .warpPromotion .. | .pinwaitExpiry ..
  | .parkedRestoreTimeout .. | .timerDeadline .. | .sliceEnd .. | .stringBeat .. | .strimbUpdate .. | .autoGate ..
  | .gatingSequenceEnd .. | .wakeComplete .. | .sramRailWindow .. | .railHoldEnd | .coreLoss .. | .affinitySteal ..
  | .queueNotify .. | .vfPauseWrite .. | .vfTimeWrite .. | .vfQtailWrite .. | .registerWrite .. | .flrRequest ..
  | .hostCxlMemAccess .. | .hostCxlCacheAccess .. | .towpathPeerAccess .. | .flitReceive .. | .nakReceive ..
  | .flitRetryTimer .. | .towpathTimeout .. | .bringUp | .chargeRecordUpdate | .operatingPointReached ..
  | .regionTeardown .. | .stringLeavesRegion .. => true

end Sys2Proof
end

