-- ==== Sys2Proof/Decode.lean ====
section
/-!
DEFINITION. The decoder, total on any bytes (R62 to R80), and after it the encoder, both written from the field tables of R63,
R65 to R67 and the opcode map of R79.
-/
namespace Sys2Proof

/-- Why a word is no instruction: its opcode is undefined (step 1 of R80), a field is one that the opcode does not allow
(step 4), or there are not twelve bytes. -/
inductive DecodeErr where
  | undefinedOpcode (op : Byte)
  | illegalField
  | shortWord
  deriving DecidableEq, Repr

/-! Reading fields -/

/-- The crossbar selector of a register operand (R67): pattern in [7:5], parameter in [4:0]. -/
def decodeXbar (f : Byte) : Option Xbar :=
  let k := f.extractLsb' 0 5
  match (f.extractLsb' 5 3).toNat with
  | 0 => if k == 0 then some .id else none
  | 1 => some (.rot k)
  | 2 => some (.bc k)
  | 3 => some (.bfly k)
  | 4 => some (.mir k)
  | 5 => if k == 0 then some .fa else none
  | 6 => some (.bcs k)
  | _ => none

/-- A special operand (R65, R66): class in [15:12], selector in the low bits, every other bit zero. -/
def decodeSpecial (f : BitVec 18) : Option Opnd :=
  let low := f.toNat % 4096
  match f.toNat / 4096 % 16 with
  | 0 => if low < 8 then some (.pred (f.extractLsb' 0 3)) else none
  | 1 => if low < 32 then some (.tile (f.extractLsb' 0 5)) else none
  | 2 => if low < 32 then some (.dreg (f.extractLsb' 0 5)) else none
  | 3 => if low < 8 then some (.xreg (f.extractLsb' 0 3)) else none
  | 4 => if low < 8 then some (.slot (f.extractLsb' 0 3)) else none
  | 5 => if low == 0 then some .zero else none
  | _ => none

/-- One operand field (R65). -/
def decodeOpnd (f : BitVec 18) : Option Opnd :=
  match f.toNat / 65536 with
  | 0 => (decodeXbar (f.extractLsb' 0 8)).map (Opnd.vreg (f.extractLsb' 8 8))
  | 1 => (decodeXbar (f.extractLsb' 0 8)).map (Opnd.vidx (f.extractLsb' 13 3) (f.extractLsb' 8 5))
  | 2 => some (.imm (f.extractLsb' 0 16))
  | _ => decodeSpecial f

/-- GRD, STL, YLD and RU (R63). -/
def decodeCtl (w : W96) : Ctl :=
  { grd := w.extractLsb' 16 4, stl := w.extractLsb' 74 4, yld := w.extractLsb' 78 1, ru := w.extractLsb' 79 2 }

/-- A word read in operand form (R63). -/
def unpack3 (w : W96) : Option Op3 :=
  match decodeOpnd (w.extractLsb' 20 18), decodeOpnd (w.extractLsb' 38 18), decodeOpnd (w.extractLsb' 56 18) with
  | some d, some a, some b =>
    some { ctl := decodeCtl w, var := w.extractLsb' 8 8, xt := w.extractLsb' 85 11, sid := w.extractLsb' 81 4, d, a, b }
  | _, _, _ => none

/-- A word read in long-immediate form (R63, R70): bits [73:70] must be zero. -/
def unpackL (w : W96) : Option OpL :=
  if w.extractLsb' 70 4 == (0 : BitVec 4) then
    (decodeOpnd (w.extractLsb' 20 18)).map fun d =>
      { ctl := decodeCtl w, var := w.extractLsb' 8 8, xt := w.extractLsb' 85 11, sid := w.extractLsb' 81 4, d,
        imm := w.extractLsb' 38 32 }
  else none

/-- The opcode map of R79, opcodes in operand form. One opcode whose VAR or B chooses among rows of the table gives the row's
constructor. -/
def instr3 (op : Nat) (o : Op3) : Option Instr :=
  match op with
  | 0x00 => some (.nop o)
  | 0x01 => some (.iadd o)
  | 0x02 => some (.isub o)
  | 0x03 => some (.imul o)
  | 0x04 => some (.imulh o)
  | 0x05 => some (.imad o)
  | 0x06 => some (.imin o)
  | 0x07 => some (.imax o)
  | 0x08 => some (.iabs o)
  | 0x09 => some (.shl o)
  | 0x0A => some (.shr o)
  | 0x0B => some (.sar o)
  | 0x0C => some (.and o)
  | 0x0D => some (.or o)
  | 0x0E => some (.xor o)
  | 0x0F => some (.lut3 o)
  | 0x10 => some (.popc o)
  | 0x11 => some (.clz o)
  | 0x12 => some (.brev o)
  | 0x13 => some (.bfx o)
  | 0x14 => some (.bfi o)
  | 0x15 => some (.isetp o)
  | 0x16 => some (.sel o)
  | 0x17 => some (.idot4 o)
  | 0x20 => some (.fadd o)
  | 0x21 => some (.fsub o)
  | 0x22 => some (.fmul o)
  | 0x23 => some (.fma o)
  | 0x24 => some (.fmin o)
  | 0x25 => some (.fmax o)
  | 0x26 => some (.fsetp o)
  | 0x27 => some (.fclass o)
  | 0x28 => some (.frnd o)
  | 0x29 => some (.frcp o)
  | 0x2A => some (.frsq o)
  | 0x2B => some (.fsqrt o)
  | 0x2C => some (.fexp2 o)
  | 0x2D => some (.flog2 o)
  | 0x2E => some (.fsin o)
  | 0x2F => some (.fcos o)
  | 0x30 => some (.fscale o)
  | 0x31 => some (.hadd2 o)
  | 0x32 => some (.hmul2 o)
  | 0x33 => some (.hfma2 o)
  | 0x34 => some (.cvt o)
  | 0x35 => some (.qnt48 o)
  | 0x40 => some (.mov o)
  | 0x42 => if o.var == 1 then some (.sreadClr o) else some (.sread o)
  | 0x43 => some (.vote o)
  | 0x44 => some (.wred o)
  | 0x45 => some (.wscan o)
  | 0x46 => some (.plop o)
  | 0x47 => some (.xset o)
  | 0x48 => some (.xwin o)
  | 0x49 => some (.xadd o)
  | 0x4A => some (.rep o)
  | 0x4B => some (.dqpop o)
  | 0x50 => some (.ld o)
  | 0x51 => some (.st o)
  | 0x52 => some (.lds o)
  | 0x53 => some (.sts o)
  | 0x54 => some (.atom o)
  | 0x55 => some (.atoms o)
  | 0x56 => some (.red o)
  | 0x57 => some (.fence o)
  | 0x58 => some (.fencex o)
  | 0x59 => some (.pref o)
  | 0x5A => some (.cctl o)
  | 0x62 => some (.brx o)
  | 0x64 => some (.ret o)
  | 0x65 => some (.exit o)
  | 0x66 => some (.hitch o)
  | 0x67 => if o.var == 1 then some (.barArv o) else some (.bar o)
  | 0x68 => some (.role o)
  | 0x69 => some (.fbp o)
  | 0x6A => some (.yield o)
  | 0x6B => some (.trap o)
  | 0x6C => some (.racc o)
  | 0x6D => some (.rfirst o)
  | 0x6E => if o.var == 1 then some (.rsigExit o) else some (.rsigGuessed o)
  | 0x6F => some (.rjoin o)
  | 0x80 => some (.dadd o)
  | 0x81 => some (.dsub o)
  | 0x82 => some (.dmul o)
  | 0x83 => some (.dmulh o)
  | 0x84 => some (.ddiv o)
  | 0x85 => some (.dand o)
  | 0x86 => some (.dor o)
  | 0x87 => some (.dxor o)
  | 0x88 => some (.dshl o)
  | 0x89 => some (.dshr o)
  | 0x8A => some (.dsar o)
  | 0x8B => some (.dset o)
  | 0x8C => some (.dsel o)
  | 0x8E => some (.dld o)
  | 0x8F => some (.dst o)
  | 0x90 => some (.datom o)
  | 0x91 => some (.dlds o)
  | 0x92 => some (.dsts o)
  | 0x95 => some (.dret o)
  | 0x96 => some (.dend o)
  | 0x97 => some (.dsread o)
  | 0x98 => some (.dfence o)
  | 0x99 => some (.dqpush o)
  | 0x9A => if o.var == 1 then some (.dbarArv o) else some (.dbar o)
  | 0x9B => some (.dhash o)
  | 0x9C => some (.dbit o)
  | 0xB0 => some (.mma o)
  | 0xB1 => some (.mmag o)
  | 0xB2 => some (.scacc o)
  | 0xB3 => some (.drain o)
  | 0xB4 => some (.aclr o)
  | 0xB5 => some (.ald o)
  | 0xB6 => some (.ast o)
  | 0xB7 => some (.attn o)
  | 0xB8 => some (.atmerge o)
  | 0xB9 => some (.atnorm o)
  | 0xBA => some (.copy o)
  | 0xBB => some (.copyx o)
  | 0xBC => some (.bfence o)
  | 0xBD => some (.bwait o)
  | 0xBE => some (.evpop o)
  | 0xBF => some (.launch o)
  | 0xC0 => if o.var == 1 then some (.kvfindRef o) else if o.var == 2 then some (.kvfindUnref o) else some (.kvfindLook o)
  | 0xC1 => some (.kvins o)
  | 0xC2 => some (.kvapp o)
  | 0xC3 => some (.kvtrim o)
  | 0xC4 => some (.kvown o)
  | 0xC5 => some (.kvpull o)
  | 0xC6 => some (.wsref o)
  | 0xC7 => some (.wsswap o)
  | 0xC8 => some (.wsbcast o)
  | 0xC9 => some (.wspull o)
  | 0xCA => some (.objnew o)
  | 0xCB => some (.objopen o)
  | 0xCC => some (.objhand o)
  | 0xCD => some (.objdrop o)
  | 0xCE => some (.objsync o)
  | 0xCF => some (.relay o)
  | 0xD0 => some (.rwait o)
  | 0xE0 => some (.swrite o)
  | 0xE1 => some (.rtt o)
  | 0xE2 => some (.ctxsave o)
  | 0xE3 => some (.ctxload o)
  | 0xE4 => if o.var == 1 then some (.tlbinvVf o) else if o.var == 2 then some (.tlbinvAll o) else some (.tlbinvPg o)
  | 0xE5 => if o.var == 1 then some (.l2opInv o) else if o.var == 2 then some (.l2opWbi o) else if o.var == 3 then some (.l2opVfwb o) else some (.l2opWb o)
  | 0xE6 => some (.halt o)
  | 0xE7 => some (.qclaim o)
  | 0xE8 => some (.wgstart o)
  | 0xE9 => some (.scrub o)
  | 0xEA => some (.draint o)
  | 0xEB => some (.pwrset o)
  | 0xEC => some (.strset o)
  | 0xED => if o.var == 1 then some (.gateWake o) else if o.var == 2 then some (.gateHold o) else if o.var == 3 then some (.gateAuto o) else some (.gateNow o)
  | 0xEE => if o.b == .imm 1 then some (.rtcallVerify o) else if o.b == .imm 2 then some (.rtcallQuote o) else some (.rtcallMeasure o)
  | _ => none

/-- The opcode map of R79, long-immediate opcodes (R70). -/
def instrL (op : Nat) (o : OpL) : Option Instr :=
  match op with
  | 0x41 => some (.movi o)
  | 0x60 => some (.bra o)
  | 0x61 => some (.bru o)
  | 0x63 => some (.call o)
  | 0x8D => some (.dmovi o)
  | 0x93 => some (.dbra o)
  | 0x94 => some (.dcall o)
  | _ => none

/-- The opcode is one of the long-immediate opcodes (R70). -/
def isLongOp (op : Nat) : Bool := [0x41, 0x60, 0x61, 0x63, 0x8D, 0x93, 0x94].contains op

/-- The opcode is defined in R79. -/
def opDefined (op : Nat) : Bool :=
  op ≤ 0x17 || (0x20 ≤ op && op ≤ 0x35) || (0x40 ≤ op && op ≤ 0x4B) || (0x50 ≤ op && op ≤ 0x5A) || (0x60 ≤ op && op ≤ 0x6F)
    || (0x80 ≤ op && op ≤ 0x9C) || (0xB0 ≤ op && op ≤ 0xD0) || (0xE0 ≤ op && op ≤ 0xEE)

/-- The opcode belongs to the warp space (R79). -/
def opIsWarp (op : Nat) : Bool := op < 0x80
/-- The opcode belongs to the system space (R79). -/
def opIsSystem (op : Nat) : Bool := 0xE0 ≤ op

/-- The instruction of a word, before the checks of its fields. -/
def instrOf (w : W96) : Option Instr :=
  let op := (w.extractLsb' 0 8).toNat
  if isLongOp op then (unpackL w).bind (instrL op) else (unpack3 w).bind (instr3 op)

/-- The instruction of a word: steps 1 and 4 of R80. -/
def decode (w : W96) : Except DecodeErr Instr :=
  if opDefined (w.extractLsb' 0 8).toNat then
    match instrOf w with
    | some i => if i.wf then .ok i else .error .illegalField
    | none => .error .illegalField
  else .error (.undefinedOpcode (w.extractLsb' 0 8))

/-! Bytes -/

/-- The number whose little-endian bytes are given (R3). -/
def leNat : List Byte → Nat
  | [] => 0
  | b :: bs => b.toNat + 256 * leNat bs

/-- The `n` little-endian bytes of a number (R3). -/
def leBytes : Nat → Nat → List Byte
  | 0, _ => []
  | n + 1, x => BitVec.ofNat 8 x :: leBytes n (x / 256)

/-- The instruction that twelve bytes in memory order hold (R62). -/
def decodeBytes (bs : List Byte) : Except DecodeErr Instr :=
  if bs.length < 12 then .error .shortWord else decode (BitVec.ofNat 96 (leNat (bs.take 12)))

/-- The instruction that this decoder reads from a table row's bits; bits above `nbits` are zero. -/
def decodeTableWord (nbits w : Nat) : Option Instr :=
  match decodeBytes (leBytes 12 (w % 2 ^ nbits)) with
  | .ok i => some i
  | .error _ => none

/-! Encoding -/

/-- The selector bits of a crossbar pattern (R67). -/
def encodeXbar : Xbar → Byte
  | .id => 0
  | .rot k => 1#3 ++ k
  | .bc k => 2#3 ++ k
  | .bfly k => 3#3 ++ k
  | .mir k => 4#3 ++ k
  | .fa => 5#3 ++ 0#5
  | .bcs k => 6#3 ++ k

/-- The 18 bits of an operand (R65, R66). -/
def encodeOpnd : Opnd → BitVec 18
  | .vreg n x => 0#2 ++ n ++ encodeXbar x
  | .vidx xn off x => 1#2 ++ xn ++ off ++ encodeXbar x
  | .imm v => 2#2 ++ v
  | .pred n => 3#2 ++ 0#4 ++ 0#9 ++ n
  | .tile n => 3#2 ++ 1#4 ++ 0#7 ++ n
  | .dreg n => 3#2 ++ 2#4 ++ 0#7 ++ n
  | .xreg n => 3#2 ++ 3#4 ++ 0#9 ++ n
  | .slot n => 3#2 ++ 4#4 ++ 0#9 ++ n
  | .zero => 3#2 ++ 5#4 ++ 0#12

/-- A word in operand form, laid out by R63. -/
def pack3 (op : Byte) (o : Op3) : W96 :=
  o.xt ++ o.sid ++ o.ctl.ru ++ o.ctl.yld ++ o.ctl.stl ++ encodeOpnd o.b ++ encodeOpnd o.a ++ encodeOpnd o.d ++ o.ctl.grd
    ++ o.var ++ op

/-- A word in long-immediate form, laid out by R63. -/
def packL (op : Byte) (o : OpL) : W96 :=
  o.xt ++ o.sid ++ o.ctl.ru ++ o.ctl.yld ++ o.ctl.stl ++ 0#4 ++ o.imm ++ encodeOpnd o.d ++ o.ctl.grd ++ o.var ++ op

/-- The word of an instruction; events have none. `rtcall` for a margin signature is the word of `rtcall` for a quote: the
request block's KIND tells them apart (R369). -/
def encode (i : Instr) : Option W96 :=
  match i with
  | .nop o => some (pack3 0x00 o)
  | .iadd o => some (pack3 0x01 o)
  | .isub o => some (pack3 0x02 o)
  | .imul o => some (pack3 0x03 o)
  | .imulh o => some (pack3 0x04 o)
  | .imad o => some (pack3 0x05 o)
  | .imin o => some (pack3 0x06 o)
  | .imax o => some (pack3 0x07 o)
  | .iabs o => some (pack3 0x08 o)
  | .shl o => some (pack3 0x09 o)
  | .shr o => some (pack3 0x0A o)
  | .sar o => some (pack3 0x0B o)
  | .and o => some (pack3 0x0C o)
  | .or o => some (pack3 0x0D o)
  | .xor o => some (pack3 0x0E o)
  | .lut3 o => some (pack3 0x0F o)
  | .popc o => some (pack3 0x10 o)
  | .clz o => some (pack3 0x11 o)
  | .brev o => some (pack3 0x12 o)
  | .bfx o => some (pack3 0x13 o)
  | .bfi o => some (pack3 0x14 o)
  | .isetp o => some (pack3 0x15 o)
  | .sel o => some (pack3 0x16 o)
  | .idot4 o => some (pack3 0x17 o)
  | .fadd o => some (pack3 0x20 o)
  | .fsub o => some (pack3 0x21 o)
  | .fmul o => some (pack3 0x22 o)
  | .fma o => some (pack3 0x23 o)
  | .fmin o => some (pack3 0x24 o)
  | .fmax o => some (pack3 0x25 o)
  | .fsetp o => some (pack3 0x26 o)
  | .fclass o => some (pack3 0x27 o)
  | .frnd o => some (pack3 0x28 o)
  | .frcp o => some (pack3 0x29 o)
  | .frsq o => some (pack3 0x2A o)
  | .fsqrt o => some (pack3 0x2B o)
  | .fexp2 o => some (pack3 0x2C o)
  | .flog2 o => some (pack3 0x2D o)
  | .fsin o => some (pack3 0x2E o)
  | .fcos o => some (pack3 0x2F o)
  | .fscale o => some (pack3 0x30 o)
  | .hadd2 o => some (pack3 0x31 o)
  | .hmul2 o => some (pack3 0x32 o)
  | .hfma2 o => some (pack3 0x33 o)
  | .cvt o => some (pack3 0x34 o)
  | .qnt48 o => some (pack3 0x35 o)
  | .mov o => some (pack3 0x40 o)
  | .movi o => some (packL 0x41 o)
  | .sreadClr o => some (pack3 0x42 o)
  | .sread o => some (pack3 0x42 o)
  | .vote o => some (pack3 0x43 o)
  | .wred o => some (pack3 0x44 o)
  | .wscan o => some (pack3 0x45 o)
  | .plop o => some (pack3 0x46 o)
  | .xset o => some (pack3 0x47 o)
  | .xwin o => some (pack3 0x48 o)
  | .xadd o => some (pack3 0x49 o)
  | .rep o => some (pack3 0x4A o)
  | .dqpop o => some (pack3 0x4B o)
  | .ld o => some (pack3 0x50 o)
  | .st o => some (pack3 0x51 o)
  | .lds o => some (pack3 0x52 o)
  | .sts o => some (pack3 0x53 o)
  | .atom o => some (pack3 0x54 o)
  | .atoms o => some (pack3 0x55 o)
  | .red o => some (pack3 0x56 o)
  | .fence o => some (pack3 0x57 o)
  | .fencex o => some (pack3 0x58 o)
  | .pref o => some (pack3 0x59 o)
  | .cctl o => some (pack3 0x5A o)
  | .bra o => some (packL 0x60 o)
  | .bru o => some (packL 0x61 o)
  | .brx o => some (pack3 0x62 o)
  | .call o => some (packL 0x63 o)
  | .ret o => some (pack3 0x64 o)
  | .exit o => some (pack3 0x65 o)
  | .hitch o => some (pack3 0x66 o)
  | .barArv o => some (pack3 0x67 o)
  | .bar o => some (pack3 0x67 o)
  | .role o => some (pack3 0x68 o)
  | .fbp o => some (pack3 0x69 o)
  | .yield o => some (pack3 0x6A o)
  | .trap o => some (pack3 0x6B o)
  | .racc o => some (pack3 0x6C o)
  | .rfirst o => some (pack3 0x6D o)
  | .rsigExit o => some (pack3 0x6E o)
  | .rsigGuessed o => some (pack3 0x6E o)
  | .rjoin o => some (pack3 0x6F o)
  | .dadd o => some (pack3 0x80 o)
  | .dsub o => some (pack3 0x81 o)
  | .dmul o => some (pack3 0x82 o)
  | .dmulh o => some (pack3 0x83 o)
  | .ddiv o => some (pack3 0x84 o)
  | .dand o => some (pack3 0x85 o)
  | .dor o => some (pack3 0x86 o)
  | .dxor o => some (pack3 0x87 o)
  | .dshl o => some (pack3 0x88 o)
  | .dshr o => some (pack3 0x89 o)
  | .dsar o => some (pack3 0x8A o)
  | .dset o => some (pack3 0x8B o)
  | .dsel o => some (pack3 0x8C o)
  | .dmovi o => some (packL 0x8D o)
  | .dld o => some (pack3 0x8E o)
  | .dst o => some (pack3 0x8F o)
  | .datom o => some (pack3 0x90 o)
  | .dlds o => some (pack3 0x91 o)
  | .dsts o => some (pack3 0x92 o)
  | .dbra o => some (packL 0x93 o)
  | .dcall o => some (packL 0x94 o)
  | .dret o => some (pack3 0x95 o)
  | .dend o => some (pack3 0x96 o)
  | .dsread o => some (pack3 0x97 o)
  | .dfence o => some (pack3 0x98 o)
  | .dqpush o => some (pack3 0x99 o)
  | .dbarArv o => some (pack3 0x9A o)
  | .dbar o => some (pack3 0x9A o)
  | .dhash o => some (pack3 0x9B o)
  | .dbit o => some (pack3 0x9C o)
  | .mma o => some (pack3 0xB0 o)
  | .mmag o => some (pack3 0xB1 o)
  | .scacc o => some (pack3 0xB2 o)
  | .drain o => some (pack3 0xB3 o)
  | .aclr o => some (pack3 0xB4 o)
  | .ald o => some (pack3 0xB5 o)
  | .ast o => some (pack3 0xB6 o)
  | .attn o => some (pack3 0xB7 o)
  | .atmerge o => some (pack3 0xB8 o)
  | .atnorm o => some (pack3 0xB9 o)
  | .copy o => some (pack3 0xBA o)
  | .copyx o => some (pack3 0xBB o)
  | .bfence o => some (pack3 0xBC o)
  | .bwait o => some (pack3 0xBD o)
  | .evpop o => some (pack3 0xBE o)
  | .launch o => some (pack3 0xBF o)
  | .kvfindRef o => some (pack3 0xC0 o)
  | .kvfindUnref o => some (pack3 0xC0 o)
  | .kvfindLook o => some (pack3 0xC0 o)
  | .kvins o => some (pack3 0xC1 o)
  | .kvapp o => some (pack3 0xC2 o)
  | .kvtrim o => some (pack3 0xC3 o)
  | .kvown o => some (pack3 0xC4 o)
  | .kvpull o => some (pack3 0xC5 o)
  | .wsref o => some (pack3 0xC6 o)
  | .wsswap o => some (pack3 0xC7 o)
  | .wsbcast o => some (pack3 0xC8 o)
  | .wspull o => some (pack3 0xC9 o)
  | .objnew o => some (pack3 0xCA o)
  | .objopen o => some (pack3 0xCB o)
  | .objhand o => some (pack3 0xCC o)
  | .objdrop o => some (pack3 0xCD o)
  | .objsync o => some (pack3 0xCE o)
  | .relay o => some (pack3 0xCF o)
  | .rwait o => some (pack3 0xD0 o)
  | .swrite o => some (pack3 0xE0 o)
  | .rtt o => some (pack3 0xE1 o)
  | .ctxsave o => some (pack3 0xE2 o)
  | .ctxload o => some (pack3 0xE3 o)
  | .tlbinvVf o => some (pack3 0xE4 o)
  | .tlbinvAll o => some (pack3 0xE4 o)
  | .tlbinvPg o => some (pack3 0xE4 o)
  | .l2opInv o => some (pack3 0xE5 o)
  | .l2opWbi o => some (pack3 0xE5 o)
  | .l2opVfwb o => some (pack3 0xE5 o)
  | .l2opWb o => some (pack3 0xE5 o)
  | .halt o => some (pack3 0xE6 o)
  | .qclaim o => some (pack3 0xE7 o)
  | .wgstart o => some (pack3 0xE8 o)
  | .scrub o => some (pack3 0xE9 o)
  | .draint o => some (pack3 0xEA o)
  | .pwrset o => some (pack3 0xEB o)
  | .strset o => some (pack3 0xEC o)
  | .gateWake o => some (pack3 0xED o)
  | .gateHold o => some (pack3 0xED o)
  | .gateAuto o => some (pack3 0xED o)
  | .gateNow o => some (pack3 0xED o)
  | .rtcallVerify o => some (pack3 0xEE o)
  | .rtcallQuote o => some (pack3 0xEE o)
  | .rtcallMeasure o => some (pack3 0xEE o)
  | .rtcallMarginSignature o => some (pack3 0xEE o)
  | .roleGrant .. => none
  | .batchCompletion .. => none
  | .wsbcastReceive .. => none
  | .relayBegin .. => none
  | .warpPromotion .. => none
  | .pinwaitExpiry .. => none
  | .parkedRestoreTimeout .. => none
  | .timerDeadline .. => none
  | .sliceEnd .. => none
  | .stringBeat .. => none
  | .strimbUpdate .. => none
  | .autoGate .. => none
  | .gatingSequenceEnd .. => none
  | .wakeComplete .. => none
  | .sramRailWindow .. => none
  | .railHoldEnd => none
  | .coreLoss .. => none
  | .affinitySteal .. => none
  | .queueNotify .. => none
  | .vfPauseWrite .. => none
  | .vfTimeWrite .. => none
  | .vfQtailWrite .. => none
  | .registerWrite .. => none
  | .flrRequest .. => none
  | .hostCxlMemAccess .. => none
  | .hostCxlCacheAccess .. => none
  | .towpathPeerAccess .. => none
  | .flitReceive .. => none
  | .nakReceive .. => none
  | .flitRetryTimer .. => none
  | .towpathTimeout .. => none
  | .bringUp => none
  | .chargeRecordUpdate => none
  | .operatingPointReached .. => none
  | .regionTeardown .. => none
  | .stringLeavesRegion .. => none

/-- The constructor is the one that the decoder gives for its word: an instruction of the table's encoded rows, with `rtcall`
under the row that its function operand names. -/
def Instr.canonical : Instr → Bool
  | .rtcallMeasure o => o.b != .imm 1 && o.b != .imm 2
  | .rtcallVerify o => o.b == .imm 1
  | .rtcallQuote o => o.b == .imm 2
  | .rtcallMarginSignature _ => false
  | i => (encode i).isSome

end Sys2Proof
end

