-- ==== Sys2Proof/Config.lean ====
section
/-!
DEFINITION. What one module fixes (R1, R368, R369) and the free values: constants without a body, so that nothing can be
proved of the value they take (R6).
-/
namespace Sys2Proof.Config

/-- An unspecified value of `w` bits (R6): `ctr` is the state's counter of steps that took one, `pos` its place in that step. -/
opaque freeBits (w ctr pos : Nat) : BitVec w

/-- An open choice among several allowed outcomes, as a number. -/
opaque freeNat (ctr pos : Nat) : Nat

/-- The bytes of module flash at power-on (R368): configuration image, signature, margin section. -/
opaque flash : List (BitVec 8)

/-- The bytes of the signed ostler firmware image, with its signature (R370). -/
opaque firmware : List (BitVec 8)

/-- Where bring-up places the firmware in memory, and where an ostler starts in it (log 5). -/
opaque firmwareBase : Nat
opaque ostlerEntry : BitVec 64

/-- The layout of the margin section of module flash, which no rule gives (R356; log 33): how many of the bytes from its offset on it
has before its signature, the operating points that they give, rail r, point k at 16 r + k, and whether these lie within the bounds of
the vendor section. -/
opaque marginLen : List (BitVec 8) → Nat
opaque marginTable : List (BitVec 8) → List (BitVec 64)
opaque marginBounded : List (BitVec 64) → Bool

/-- ML-DSA-44 verification with the vendor key (R369): message hash, signature. -/
opaque vendorVerify : List (BitVec 8) → List (BitVec 8) → Bool

/-- ML-DSA-44 signature by the device identity key over a hash, and the verification of one (R369, R370). -/
opaque identitySign : List (BitVec 8) → List (BitVec 8)
opaque identityVerify : List (BitVec 8) → List (BitVec 8) → Bool

/-- Where a leaf reaches another module's memory, if anywhere: the node and the line there of a line number outside the module's own map.
No rule gives it (R323; log 23). -/
opaque peerAt : Nat → Option (Nat × Nat)

/-- Bytes of an ML-DSA-44 signature (R368, R369). -/
def sigLen : Nat := 2420

/-- Cores, strings and dies (R1). -/
def nCores : Nat := 256
def nStrings : Nat := 64
def nVfs : Nat := 64
/-- Lines of an L2 slice, 3 MiB (R1, R242), and slices of a die. -/
def l2Lines : Nat := 49152
def dieSlices : Nat := 16
/-- The organisation of a slice, which no rule gives (R242; log 44): its ways, a divisor 2^i or 3 × 2^i of the 2^14 × 3 lines, and a
line's set among `l2Lines / l2Ways`. -/
opaque l2WaysOpen : Nat
opaque l2SetOpen : Nat → Nat
def l2Ways : Nat := 2 ^ (l2WaysOpen % 15) * 3 ^ (l2WaysOpen / 15 % 2)
def l2Set (line : Nat) : Nat := l2SetOpen line % (l2Lines / l2Ways)
/-- Cores of a die (R1), entries of a core's TLB (R243). -/
def dieCores : Nat := 64
def tlbEntries : Nat := 3072
/-- Workgroup slots and warp slots of a core (R1). -/
def nSlots : Nat := 8
def nWarpSlots : Nat := 32
/-- Granules of a core's register file (R14), physical tiles (R250), scratchpad bytes (R238). -/
def nGranules : Nat := 256
def nTiles : Nat := 32
def scratchBytes : Nat := 524288
/-- Towpath ports and their replay buffer in flits (R1, R367). -/
def nPorts : Nat := 18
def replayFlits : Nat := 128
/-- Words of a core's trap queue (R331), entries of its affinity queue (R311). -/
def trapQueueWords : Nat := 512
def affinityEntries : Nat := 32
/-- L1 sets and ways (R241). -/
def l1Sets : Nat := 256
def l1Ways : Nat := 8
/-- HBM bytes, base and bytes of the second tier, base of host memory (R249, R339). -/
def hbmBytes : Nat := 768 * 2 ^ 30
def tierBase : Nat := 0x400_0000_0000
def tierBytes : Nat := 4096 * 2 ^ 30
def hostBase : Nat := 0x800_0000_0000
/-- HBM bytes of one channel, second-tier bytes of one channel (R339). -/
def hbmChannel : Nat := 1536 * 2 ^ 20
def tierChannel : Nat := 64 * 2 ^ 30

end Sys2Proof.Config
end

