-- ==== Sys2Proof/Machine/State.lean ====
section
/-!
DEFINITION. The state of the module, as plain data: every piece of state that the spec names, and the model's own fields
(marked "model") that hold the open choices, the agent in turn and the surroundings.
-/
namespace Sys2Proof.Machine

/-! Memory -/

/-- Memory contents: (address, byte) pairs, addresses strictly rising, no byte equal to `Memory.absent`. -/
abbrev Memory := List Host.Cell

/-- What an address that no entry lists reads as (R238 for scratchpad; for HBM and the second tier a design choice, log 3). -/
def Memory.absent : Byte := 0

/-- The canonical form: addresses strictly rising, and no entry that an unlisted address would read as. -/
def Memory.wf (m : Memory) : Bool :=
  match m with
  | [] => true
  | [c] => c.2 != Memory.absent
  | c :: d :: r => c.2 != Memory.absent && c.1 < d.1 && Memory.wf (d :: r)

/-! Traps -/

/-- The trap classes (R329). -/
inductive TrapClass where
  | ill | priv | reg | addr | align | tran | pin | eccu | unif | stallchk | user | timer
  deriving DecidableEq, Repr, Inhabited

/-- A trap before it is taken: class, word X, holder core for PIN, and its PC where that is not the agent's next word (R329, R375). -/
structure TrapInfo where
  cls    : TrapClass
  x      : Nat := 0
  holder : Nat := 0
  pc     : Option W64 := none
  deriving DecidableEq, Repr, Inhabited

/-- Why no step is taken. -/
inductive Fault where
  /-- Raised by a meaning when the state names no agent that could issue it. `step` never raises it. Safe: the machine stops. -/
  | noAgent
  /-- Raised by a word that acts on its workgroup (its engines, window, queues, barriers or batches) when the ostler slot, which
  has none, issues it: the spec gives no effect there (log 24). Safe: the machine stops. -/
  | noWorkgroup
  deriving DecidableEq, Repr, Inhabited

/-- Why a word has no meaning here. -/
inductive Refusal where
  /-- The instruction is not modelled yet. No arm uses it. Safe: nothing is claimed of it. -/
  | notModelled (mnemonic : String)
  deriving DecidableEq, Repr, Inhabited

/-! Warps -/

/-- One v register: a value for each of 32 lanes (R12). -/
abbrev Lanes := List W32

/-- What a fixed-latency result is written to, and what an early read reads (R83, R375). -/
inductive SbKey where
  | v (n : Nat) | p (n : Nat) | x (n : Nat) | win (n : Nat)
  deriving DecidableEq, Repr, Inhabited

/-- What a whole warp waits for (R211). -/
inductive WBlock where
  | none
  /-- arrived at the barrier, waits for the flip (R138) -/
  | bar (b : Nat)
  /-- at a barrier where it has already arrived in this phase; `arv` for the `bar.arv` form (R138) -/
  | barAgain (b : Nat) (arv : Bool)
  /-- for a grant of role k (R16) -/
  | role (k : Nat)
  /-- for the other warps of the collective, with the registers that receive the result, each with its lanes (R145) -/
  | rfirst (dest : List (Nat × W32))
  /-- for a relay, or for the relay's next round (R142) -/
  | rjoin
  /-- guess routine done, waits for the body (R143) -/
  | guessed
  /-- body done, waits for the decision (R144) -/
  | racc
  /-- a stopped leg (R273) -/
  | stopped
  /-- parked on an absent page: its function and page address (R120, R248) -/
  | parked (vf page : Nat)
  /-- a leg whose commit is under RETRY on a line, its address as a trap reports it, since a clock value (R229, R270) -/
  | pin (line addr since : Nat)
  deriving DecidableEq, Repr, Inhabited

/-- What one gang waits for: an entry of the decision queue (R131), RETRY on a line, its address as a trap reports it, since a
clock value (R229), or the registers of the word of another gang, by its leader, that waits so (R83). -/
inductive GKind where
  | dqpop
  | pin (line addr since : Nat)
  | lock (leader : Nat)
  deriving DecidableEq, Repr, Inhabited

/-- A gang, by its leader, that waits; `held` while it may not issue its word again. -/
structure GWait where
  leader : Nat
  held   : Bool
  kind   : GKind
  deriving DecidableEq, Repr, Inhabited

/-- The `rep` state of a warp (R31, R117). -/
structure Rep where
  active : Bool
  left   : Nat
  count  : Nat
  stride : Int
  mask   : BitVec 3
  /-- the gang that issued `rep` -/
  leader : Nat
  deriving DecidableEq, Repr, Inhabited

/-- A warp (R12 to R21, R26 to R31, R140, R210, R290). -/
structure Warp where
  /-- v registers, as many as declared; each 32 lanes -/
  v       : List Lanes
  /-- x0–x7, each 32 lanes -/
  x       : List (List W16)
  /-- p0–p6 as lane masks; p7 is constant -/
  p       : List W32
  /-- windows of x0–x7: base, limit -/
  win     : List (Nat × Nat)
  /-- resume PCs of the lanes -/
  pcs     : List W64
  exited  : W32
  /-- gang leader of each slice -/
  leaders : List Nat
  turn    : Nat
  role    : Nat
  count   : Nat
  allot   : Nat
  /-- first granule of the allotment in the register area (R289, R290) -/
  granule : Nat
  fstat   : Byte
  fullsv  : Bool
  fbv     : Bool
  unifx   : Bool
  stchk   : Bool
  pcls    : Nat
  promo   : Bool
  rep     : Rep
  tlatch  : W32
  fbnum   : Nat
  fbpc    : W64
  /-- lanes that wait at a meeting word, and those of them that wait at a `hitch` (R136) -/
  meet    : W32
  hitch   : W32
  block   : WBlock
  /-- gangs that wait for something of their own -/
  waits   : List GWait
  /-- head position in the decision queue, counted from the start (R23) -/
  head    : Nat
  /-- `rfirst` words completed outside relays, and lanes that hold true at the waiting one (R145) -/
  rfirsts : Nat
  rfmask  : W32
  /-- `yield`, or the YLD bit, asks to be passed over once (R72, R141) -/
  passed  : Bool
  /-- physical warp slot of the core (R204, R298) -/
  wslot   : Nat
  /-- earliest clock of the next first beat (R83), clock of the last first beat, clock since when ready (R212, R214) -/
  readyAt : Nat
  lastAt  : Nat
  readySince : Nat
  /-- clock after the last beat of its last word (R205) -/
  endsAt  : Nat
  /-- fixed-latency results in flight: what, in which lanes, and the clock from which it may be read (R83) -/
  sb      : List (SbKey × W32 × Nat)
  deriving DecidableEq, Repr, Inhabited

/-! Workgroups -/

/-- What the driver waits for (R215). -/
inductive DBlock where
  | none
  /-- for the commands of its workgroup, which it saves itself (R200, R336) -/
  | saving
  | bar (b : Nat)
  | barAgain (b : Nat) (arv : Bool)
  | push
  | bfence (n : Nat)
  | bwait (n : Nat)
  | evpop
  | dend
  | rwait
  | tran (vf page : Nat)
  | pin (line addr since : Nat)
  deriving DecidableEq, Repr, Inhabited

/-- A driver (R22). -/
structure Driver where
  pc      : W64
  /-- d0–d31; d0 reads zero whatever is here -/
  d       : List W64
  priv    : Bool
  ended   : Bool
  block   : DBlock
  readyAt : Nat
  deriving DecidableEq, Repr, Inhabited

/-- A barrier (R23): counts, phase, members, who has arrived in the phase, and exits that count from the next phase. -/
structure Barrier where
  declared : Bool
  expected : Nat
  arrivals : Nat
  phase    : Bool
  members  : BitVec 17
  arrived  : BitVec 17
  leaving  : Nat
  deriving DecidableEq, Repr, Inhabited

/-- An accumulator tile (R24): cells, row state (m, l), MODE, SAT. -/
structure Tile where
  cells : List (List (BitVec 36))
  rows  : List (W32 × W32)
  f32   : Bool
  sat   : Bool
  deriving DecidableEq, Repr, Inhabited

/-- A handle slot (R25, R196). -/
inductive HSlot where
  | empty
  /-- pending until its batch (16 for the open one) completes; then it is bound as given, or empty (R196) -/
  | pending (batch : Nat) (dest : Option (Nat × Nat × Nat × Bool))
  /-- bound: directory entry, physical base and size in the core's scratchpad, read-only -/
  | bound (entry base size : Nat) (rdo : Bool)
  deriving DecidableEq, Repr, Inhabited

/-- A command that has issued and not yet run: its word, PC, and the d registers and handle slots at issue; the line that keeps it
waiting, with its address as a trap reports it, since a clock value (R158, R229); no line where it waits for a command of its batch
on one of its tiles (R161). -/
structure Retry where
  word  : Instr
  pc    : W64
  d     : List W64
  slots : List HSlot
  line  : Option (Nat × Nat)
  since : Nat
  /-- model: clock + 1 of the last attempt -/
  tried : Nat
  /-- the leg of a tagged `kvapp` whose round is not decided, and whether the append is to be trimmed when it has run (R277) -/
  leg   : Option Nat
  trim  : Bool
  deriving DecidableEq, Repr

/-- What a command of a batch still waits for; a child launch by the address of its image. -/
inductive Pend where
  | none
  | child (image : Nat)
  | relay
  /-- an answer over Towpath, since a clock value -/
  | peer (since : Nat)
  | retry (r : Retry)
  deriving DecidableEq, Repr, Inhabited

/-- A command of a batch: its engine class, status, DATA, and what it still waits for (R177). -/
structure Cmd where
  engine : Nat
  status : Nat
  data   : Nat
  pend   : Pend
  /-- model: passes that the core has started when the last of the command's has (R255) -/
  passAt : Nat := 0
  deriving DecidableEq, Repr, Inhabited

/-- The state of a numbered batch (R23, R175). -/
inductive BState where
  | idle | inflight | complete
  deriving DecidableEq, Repr, Inhabited

structure Batch where
  state : BState
  cmds  : List Cmd
  deriving DecidableEq, Repr, Inhabited

/-- The regions of a command whose batch has not been waited for (R160, R161, R33): its batch (16 for the open one), physical
scratchpad ranges (base, bytes) that it reads and writes, physical global ranges that it writes, the tiles that it names, those
that it writes, those that it writes without reading them, and the register of an `mmag` (warp, register). -/
structure Haz where
  batch   : Nat
  /-- the engine class (R177) -/
  cls     : Nat := 15
  reads   : List (Nat × Nat) := []
  writes  : List (Nat × Nat) := []
  gwrites : List (Nat × Nat) := []
  tiles   : List Nat := []
  wtiles  : List Nat := []
  fresh   : List Nat := []
  /-- tiles whose cells the command writes without reading them, and leaves the row state of; tiles whose row state it reads -/
  fcells  : List Nat := []
  rows    : List Nat := []
  /-- tiles whose SAT the command leaves though it writes the cells, or reports -/
  sat     : List Nat := []
  vreg    : Option (Nat × Nat) := none
  /-- the page frame, as physical ranges, that the command reads, and what of it the command changes (R190) -/
  attn    : List (Nat × Nat) := []
  kv      : List (Nat × Nat) := []
  /-- an object that the command moves: function, region, entry, old core (R315) -/
  move    : Option (Nat × Nat × Nat × Nat) := none
  /-- the command has not run yet, and its results are already unspecified -/
  waiting : Bool := false
  spoiled : Bool := false
  deriving DecidableEq, Repr, Inhabited

/-- One store in a leg's buffer (R232): scratchpad or global bytes at physical addresses, the lines of a global one, or the bytes of a
scratchpad one, with their addresses as a trap reports them, and stream, scope and CPOL. -/
structure BufStore where
  scratch : Bool
  bytes   : List (Nat × Byte)
  vlines  : List (Nat × Nat)
  cpol    : Nat
  sid     : Nat
  scope   : Nat
  /-- clock at which the leg stored it (R277) -/
  clock   : Nat
  deriving DecidableEq, Repr, Inhabited

/-- A tagged append of the round (R186, R276): leg, frame at its physical and virtual address, valid count before, head dimension. -/
structure Append where
  leg    : Nat
  pa     : Nat
  va     : Nat
  before : Nat
  d      : Nat
  deriving DecidableEq, Repr, Inhabited

/-- What a leg is doing in the round (R268). -/
inductive LegState where
  | idle | guessing | guessed | body | racc | stopped
  deriving DecidableEq, Repr, Inhabited

/-- A leg of a relay at its position (R266, R273, R274, R276). -/
structure Leg where
  state    : LegState
  guess    : Option (List Lanes)
  /-- stopped in the guess routine -/
  inGuess  : Bool
  /-- outcome of its `racc` against the next position's guess, and its outgoing carry -/
  matched  : Bool
  out      : List Lanes
  exitMark : Bool
  conflict : Bool
  buf      : List BufStore
  /-- lines read, scratchpad (true) or global -/
  reads    : List (Bool × Nat)
  /-- carried forward: resumes where it stopped (R271) -/
  carried  : Bool
  deriving DecidableEq, Repr, Inhabited

/-- A relay (R198, R266). -/
structure Relay where
  word   : W64
  body   : W64
  guess  : W64
  base   : Nat
  done   : Nat
  rcarry : List Lanes
  exit   : Bool
  /-- begun: its legs are set up -/
  begun  : Bool
  /-- the round's bodies have begun -/
  bodies : Bool
  legs   : List Leg
  /-- tagged appends of the round, oldest first -/
  appends : List Append
  /-- bytes as they were before leg 0's stores of one cycle: clock, scratchpad, address, byte (R277) -/
  undo   : List (Nat × Bool × Nat × Byte)
  /-- PC of the `rjoin` where each warp of the width waits (R142, R272) -/
  joins  : List W64
  deriving DecidableEq, Repr, Inhabited

/-- A role of the kernel header (R287). -/
structure Role where
  count : Nat
  pcls  : Nat
  stchk : Bool
  unifx : Bool
  decl  : Bool
  entry : Nat
  deriving DecidableEq, Repr, Inhabited

/-- The kernel header of a launch, as read at +64 of its image (R287). -/
structure KHeader where
  wcode    : Nat
  drvoff   : Nat
  fbtab    : Nat
  fbn      : Nat
  affbase  : W64
  objects  : Bool
  relay    : Bool
  cores    : Bool
  idemp    : Bool
  barcnt   : List Nat
  members  : List (BitVec 17)
  scratch  : Nat
  tiles    : Nat
  warps    : Nat
  roles    : List Role
  deriving DecidableEq, Repr, Inhabited

/-- A resident workgroup (R12, R22 to R25, R289). -/
structure Workgroup where
  vf       : Nat
  lid      : Nat
  image    : W64
  kimg     : W64
  region   : W64
  wgnum    : Nat
  coords   : Nat × Nat × Nat
  extent   : Nat × Nat × Nat
  arg      : W64
  hdr      : KHeader
  warps    : List Warp
  drv      : Driver
  pool     : Nat
  free     : Nat
  winBase  : Nat
  tiles    : List Tile
  slots    : List HSlot
  open_    : List Cmd
  batches  : List Batch
  evq      : List W64
  bars     : List Barrier
  /-- decision queue: entries from position `dqTail - dq.length`, and the tail position (R23) -/
  dq       : List W64
  dqTail   : Nat
  relay    : Option Relay
  lastDone : Nat
  /-- traps of its agents in the present cycle that have not been settled (R330) -/
  trapping : List (Nat × TrapInfo)
  /-- model: the block of the present share of parked warps has been appended (R332) -/
  parkedSent : Bool
  /-- the block of CLASS 5 has asked for the save, so that the record goes to the resume list (R332) -/
  parkAsked : Bool
  hazards  : List Haz
  captures : List (Nat × Bool)
  startAt  : Nat
  /-- cycles of WTIME that gating or earlier time does not count (R338, R350) -/
  notCounted : Nat
  deadline : Option Nat
  trapHdr  : W64
  halted   : Bool
  /-- a `ctxsave` of it waits for commands in flight (R336, R364) -/
  inSave   : Bool
  deriving DecidableEq, Repr, Inhabited

/-! Cores -/

/-- A line of L1 (R241): line number, bytes, dirty bytes, dirty streams, poison, function, the slots whose warps dirtied it. -/
structure L1Line where
  line    : Nat
  data    : List Byte
  dirty   : W64
  streams : W16
  poison  : Bool
  vf      : Nat
  owners  : BitVec 8
  deriving DecidableEq, Repr, Inhabited

/-- A TLB entry (R243): function, page base, page bytes, physical base, permissions X, W, RD. -/
structure TlbEntry where
  vf   : Nat
  va   : Nat
  size : Nat
  pa   : Nat
  x    : Bool
  w    : Bool
  rd   : Bool
  deriving DecidableEq, Repr, Inhabited

/-- An entry of a die's walk caches (R243, R247): the table of a level, for the addresses from `va` up that it translates. -/
structure WalkEntry where
  die   : Nat
  vf    : Nat
  lvl   : Nat
  va    : Nat
  table : Nat
  deriving DecidableEq, Repr, Inhabited

/-- The ostler slot of a core (R215, R249, R359). -/
structure Ostler where
  started : Bool
  pc      : W64
  d       : List W64
  ctx     : Byte
  readyAt : Nat
  deriving DecidableEq, Repr, Inhabited

/-- An entry of an affinity queue (R311). -/
structure AffEntry where
  vf     : Nat
  image  : W64
  ticket : Nat
  since  : Nat
  deriving DecidableEq, Repr, Inhabited

/-- A saved record on a core's resume list (R332, R340): function, LAUNCHID, workgroup, clock of the save, held by PAUSE. -/
structure ResumeEntry where
  vf    : Nat
  lid   : Nat
  wgnum : Nat
  since : Nat
  held  : Bool
  deriving DecidableEq, Repr, Inhabited

/-- An object's area in a core's scratchpad (R238, R240). -/
structure ObjArea where
  vf     : Nat
  region : W64
  entry  : Nat
  base   : Nat
  size   : Nat
  failed : Bool
  deriving DecidableEq, Repr, Inhabited

/-- The A latch (R257): function, LAUNCHID and workgroup whose matrix command filled it last, and its 32 rows, each with its
scratchpad address. -/
structure Latch where
  vf    : Nat
  lid   : Nat
  wgnum : Nat
  rows  : List (Nat × List Byte)
  deriving DecidableEq, Repr, Inhabited

/-- A core (R1, R204, R215, R238 to R250, R311, R331). -/
structure Core where
  lost     : Bool
  slots    : List (Option Workgroup)
  ostler   : Ostler
  scratch  : Memory
  /-- 8-byte scratchpad words with an uncorrectable error (R251) -/
  badWords : List Nat
  areas    : List ObjArea
  l1       : List L1Line
  tlb      : List TlbEntry
  trapq    : List (List W64)
  affq     : List AffEntry
  resume   : List ResumeEntry
  /-- clock until which each of the eight vector pipes is busy (R204) -/
  pipes    : List Nat
  /-- front-end: 1 + clock of the last issued word, next driver slot, whether the ostler issued last (R215) -/
  feAt     : Nat
  feNext   : Nat
  feOstler : Bool
  /-- scratchpad bytes that a warp or driver wrote over an operand of a command in flight: address, writer's slot, agent (16 for the
  driver); what the writer reads there is what it wrote (R160) -/
  smear    : List (Nat × Nat × Nat)
  latch    : Option Latch
  /-- matrix passes issued and not yet started (R256, R262) -/
  passes   : Nat
  /-- model: passes started since reset (R255) -/
  passesRun : Nat
  /-- the core has run a pass since its string woke (R263) -/
  ranPass  : Bool
  deriving DecidableEq, Repr, Inhabited

/-! Strings, rails, functions, links -/

/-- Gating of a string (R349, R350). -/
inductive Gate where
  | awake
  /-- the sequence runs; a wake has arrived meanwhile -/
  | gating (wake : Bool)
  | gated
  /-- awake again from a clock value -/
  | waking (done : Nat)
  deriving DecidableEq, Repr, Inhabited

/-- A string (R201, R262, R342, R347 to R350, R355). -/
structure StringSt where
  charge  : Nat
  /-- charges of instructions whose first beat is in this cycle -/
  charging : Nat
  refill  : Nat
  bcap    : Nat
  imbth   : Nat
  budget  : Nat
  beat    : Nat
  credit  : Nat
  node0   : Byte
  node1   : Byte
  node2   : Byte
  gate    : Gate
  hold    : Bool
  idleSince : Nat
  nPasses : W64
  nBall   : W64
  nSkip   : W64
  nReplay : W64
  margin  : W16
  /-- model: the least slack since reset at each set of rail levels at which it has been measured (R355) -/
  marginAt : List (List Nat × W16)
  ce      : W32
  nHigh   : W64
  nGated  : W64
  /-- function of the present slice, functions of the last 50 slices, newest first (64 for none), functions with a boost pending,
  and functions without work at the last slice ends, with how many in a row (R342) -/
  slice   : Option Nat
  recent  : List Nat
  boosts  : List Nat
  noWork  : List (Nat × Nat)
  /-- model: clock + 1 of the last string beat, of the last slice end, and of the last STRIMB update -/
  beatAt  : Nat
  sliceAt : Nat
  strimbAt : Nat
  deriving DecidableEq, Repr, Inhabited

/-- A rail (R346, R351, R352, R358): selected point, level and target in mV, the clock by which a ramp has ended, the clock at which a
hold ends; model: clock + 1 of the last uncorrectable error. -/
structure Rail where
  point   : Nat
  level   : Nat
  target  : Nat
  ramp    : Option Nat
  hold    : Option Nat
  errAt   : Nat
  deriving DecidableEq, Repr, Inhabited

/-- A host queue (R296): tail T and whether it is stopped. -/
structure HostQueue where
  tail    : Nat
  stopped : Bool
  deriving DecidableEq, Repr, Inhabited

/-- A virtual function (R203, R296, R297, R337, R340, R342, R362, R366). -/
structure Vf where
  qtab    : W64
  queues  : List HostQueue
  pause   : Bool
  time    : W64
  timeAt  : Nat
  dirtyMap : W64
  dirtyVa : W64
  dirtyN  : W32
  nextLid : Nat
  /-- LAUNCHIDs handed out since the last reset; all of them, once the counter has wrapped (R197) -/
  lids    : Nat
  /-- no workgroup has started since the last completed `draint`; requests are held back (R203) -/
  drained : Bool
  heldBack : Bool
  flr     : Bool
  msix    : Nat
  /-- virtual time as a fraction in lowest terms (R342) -/
  vtime   : Nat × Nat
  /-- model: physical address of the top-level RCB, 0 for none (log 9) -/
  topRcb  : Nat
  deriving DecidableEq, Repr, Inhabited

/-- A launch that has been admitted (R297, R300, R302). -/
structure Launch where
  vf     : Nat
  lid    : Nat
  image  : W64
  region : W64
  /-- the launching workgroup: image and workgroup number (R302) -/
  parent : Option (W64 × Nat)
  /-- the status it completed with: 0 complete, 7 killed (R300) -/
  endedAs : Option Nat
  /-- places reserved for a co-resident launch: core and window base of each workgroup (R301) -/
  reserved : List (Nat × Nat)
  /-- model: workgroups whose last save has written no capture map, since there were no captures (R326) -/
  mapless : List Nat := []
  /-- workgroups that an uncorrectable error has restarted (R252, R288) -/
  restarts : List Nat
  /-- workgroups whose saved record holds a word that `ctxsave` met with an uncorrectable error (R254) -/
  badSaves : List Nat
  /-- a workgroup of it has started (R303) -/
  begun  : Bool
  deriving DecidableEq, Repr, Inhabited

/-- A queue entry as its fields read (R296); `rsv` says that a reserved field is not zero. -/
structure QEntry where
  image  : Nat
  region : Nat
  signal : Nat
  dep    : Nat
  dk     : Nat
  rsv    : Bool
  deriving DecidableEq, Repr, Inhabited

/-- An entry that an ostler has claimed and that is not admitted yet: function, queue (16 for a child queue), the child queue's region,
its LAUNCHID, and its fields (R297, R301, R340). -/
structure Admit where
  vf     : Nat
  queue  : Nat
  region : Nat
  lid    : Nat
  entry  : QEntry
  deriving DecidableEq, Repr, Inhabited

/-- A batch of a saved workgroup that awaits a child which its record does not name: one that has no LAUNCHID yet, or a further one of
the batch (R303; log 26; model): function, record, batch, the child's image, whether the record awaits it, and the child's LAUNCHID
and status where it has ended. -/
structure Awaited where
  vf     : Nat
  rec_   : Nat
  batch  : Nat
  image  : Nat
  /-- the BATCH entry is to name this child -/
  named  : Bool
  wait   : Bool
  result : Option (Nat × Nat)
  deriving DecidableEq, Repr, Inhabited

/-- The fields of the signed configuration image that the device uses (R368). -/
structure CfgImage where
  nodeid   : Nat
  dirn     : Nat
  hmark    : Nat
  fixedw   : Nat
  dirbase  : Nat
  gatebase : Nat
  logbase  : Nat
  ctrbase  : Nat
  weights  : W64
  towto    : Nat
  ctlbase  : Nat
  /-- flash offset of the margin section (R356) -/
  marginOff : Nat
  /-- operating points: rail r, point k at 16 r + k (R346) -/
  opp      : List W64
  deriving DecidableEq, Repr, Inhabited

/-- A line held in L2 (R242): its home slice, dirty against HBM, keep mark, tag. Values live in `State.mem`. -/
structure L2Line where
  line  : Nat
  slice : Nat
  dirty : Bool
  keep  : Bool
  vf    : Nat
  deriving DecidableEq, Repr, Inhabited

/-- A Towpath port (R367): next sequence expected, next to send, flits kept for replay, replays of one flit, down, delivered. -/
structure Port where
  rxSeq     : Nat
  txSeq     : Nat
  buffer    : List (Nat × List Byte)
  replays   : Nat
  replaying : Nat
  down      : Bool
  delivered : List (List Byte)
  /-- flits put on the wire again, oldest first -/
  resent    : List Nat
  /-- what the receiver answered last: 0 nothing, 1 NAK, 2 RETRY, with the sequence number -/
  answer    : Nat × Nat
  /-- the sender's log: the clock when the port went down (R367; log 29) -/
  downLog   : List Nat
  deriving DecidableEq, Repr, Inhabited

/-- A module reached over Towpath, as its one-sided reads show it (model; R188, R189, R194, R195). -/
structure Peer where
  node    : Nat
  dirbase : Nat
  dirn    : Nat
  /-- physical base of the weight-set table of each function's top-level region -/
  wst     : List (Nat × Nat)
  deriving DecidableEq, Repr, Inhabited

/-- An error that arises in a structure (R251; model): what the surroundings cause beside the events of `State.inputs`. -/
inductive Upset where
  /-- a corrected single-bit error: rail, core (256 for none), physical address -/
  | corrected (rail core addr : Nat)
  /-- an uncorrectable error in an aligned scratchpad word, by its index -/
  | scratch (core word : Nat)
  /-- in a v, x or d register of a warp or a driver -/
  | register (core slot : Nat) (agent : AgentId)
  /-- in an accumulator cell or a row-state entry -/
  | tile (core slot : Nat)
  /-- in the d registers, the PC or the retention state of an ostler (R359) -/
  | ostler (core : Nat)
  /-- in an instruction cache, at a physical address -/
  | icache (core addr : Nat)
  /-- in a line of L1, of L2, of HBM or the second tier -/
  | l1 (core line : Nat)
  | l2 (line : Nat)
  | memory (line : Nat)
  /-- no error: module flash receives new contents at a maintenance window (R356); no word writes it -/
  | flash (bytes : List Byte)
  deriving DecidableEq, Repr, Inhabited

/-- A trim of a frame whose head dimension is not known yet (R187, R284; log 27; model): physical base, handle, the slots u to v − 1
that it leaves unspecified, and the bytes, as they were, that are those of the slots for some dimension. -/
structure Trim where
  pa     : Nat
  handle : Nat
  u      : Nat
  v      : Nat
  old    : List (Nat × Byte)
  deriving DecidableEq, Repr, Inhabited

/-- The agent whose word is being executed (model). -/
structure Cur where
  core  : Nat
  slot  : Nat
  agent : AgentId
  deriving DecidableEq, Repr, Inhabited

/-- The module. -/
structure State where
  /-- physical memory at L2: HBM, second tier, host memory (R242, R339) -/
  mem     : Memory
  /-- poisoned lines (R251, R253) -/
  poison  : List Nat
  /-- lines of HBM and the second tier with an uncorrectable error, not read into L2 since (R251) -/
  memBad  : List Nat
  l2      : List L2Line
  /-- walk caches of the dies (R243) -/
  walks   : List WalkEntry
  cores   : List Core
  strings : List StringSt
  vfs     : List Vf
  launches : List Launch
  awaited : List Awaited
  /-- claimed entries whose admission waits, oldest first -/
  admits  : List Admit
  rails   : List Rail
  ports   : List Port
  /-- control registers (R201) -/
  pinwait : Nat
  stealb  : Nat
  parkth  : Nat
  dispstop : W64
  /-- CLOCK (R27) -/
  clock   : Nat
  img     : CfgImage
  /-- the contents of module flash, which no word writes (R356, R368) -/
  flash   : List Byte
  /-- measurement registers MR0–MR7, 32 bytes each (R369) -/
  mr      : List (List Byte)
  /-- bring-up done, and whether it succeeded (R370) -/
  up      : Bool
  brickd  : Bool
  /-- the physical function's MSI-X vector, raised so many times (R366), and its TIME base -/
  pfMsix  : Nat
  /-- what the last host or peer read returned, and its poison indication (R361) -/
  hostData : List Byte
  hostPoison : Bool
  /-- model: the head dimension of a frame, by physical base and handle, as its allocator or the last `kvapp` has it (log 27) -/
  frameDims : List (Nat × Nat × Nat)
  /-- model: trims of frames without such a dimension -/
  trims   : List Trim
  /-- published frames that a store has hit: directory index, generation, physical base and bytes (R320) -/
  ruined  : List (Nat × Nat × Nat × Nat)
  /-- corrected errors of the SRAM rail in the present 1 ms window (R351) -/
  sramCe  : Nat
  /-- model: clock + 1 of the last end of such a window -/
  windowAt : Nat
  /-- model: other modules -/
  peers   : List Peer
  /-- model: events that the surroundings have caused, oldest first -/
  inputs  : List Instr
  /-- model: errors that have arisen, oldest first -/
  upsets  : List Upset
  /-- model: the agent in turn -/
  cur     : Cur
  /-- model: the waiting command that runs now: its batch (16 for the open one) and its place there -/
  replay  : Option (Nat × Nat)
  /-- bytes of register blocks that an L1 has written back, on their way to the registers: address, bytes (R355, R362; log 6) -/
  regQueue : List (Nat × List Byte)
  /-- model: counter of free values -/
  free    : Nat
  deriving DecidableEq, Repr, Inhabited

/-! Reset -/

/-- An ostler slot before bring-up starts it: OSTCTX at 0x80 (R201), d registers and PC as log 5 says. -/
def Ostler.reset : Ostler := { started := false, pc := 0, d := List.replicate 32 0, ctx := 0x80, readyAt := 0 }

/-- A core with nothing resident. -/
def Core.reset : Core :=
  { lost := false, slots := List.replicate Config.nSlots none, ostler := Ostler.reset, scratch := [], badWords := [],
    areas := [], l1 := [], tlb := [], trapq := [], affq := [], resume := [], pipes := List.replicate 8 0, feAt := 0,
    feNext := 0, feOstler := false, smear := [], latch := none, passes := 0, passesRun := 0, ranPass := false }

/-- A string at the basic level (R201, R262, R347). -/
def StringSt.reset : StringSt :=
  { charge := 0, charging := 0, refill := 16, bcap := 64, imbth := 12, budget := 64, beat := 1, credit := 64, node0 := 0,
    node1 := 0, node2 := 0, gate := .awake, hold := false, idleSince := 0, nPasses := 0, nBall := 0, nSkip := 0, nReplay := 0,
    margin := 0, marginAt := [], ce := 0, nHigh := 0, nGated := 0, slice := none, recent := [], boosts := [], noWork := [], beatAt := 0,
    sliceAt := 0, strimbAt := 0 }

/-- A rail before bring-up. -/
def Rail.reset : Rail := { point := 0, level := 0, target := 0, ramp := none, hold := none, errAt := 0 }

/-- A virtual function at reset (R297, R340). With no workgroup started there is nothing to drain (log 36). -/
def Vf.reset : Vf :=
  { qtab := 0, queues := List.replicate 16 { tail := 0, stopped := false }, pause := false, time := 0, timeAt := 0,
    dirtyMap := 0, dirtyVa := 0, dirtyN := 0, nextLid := 1, lids := 0, drained := true, heldBack := false, flr := false,
    msix := 0, vtime := (0, 1), topRcb := 0 }

/-- A port at reset. -/
def Port.reset : Port :=
  { rxSeq := 0, txSeq := 0, buffer := [], replays := 0, replaying := 0, down := false, delivered := [], resent := [],
    answer := (0, 0), downLog := [] }

/-- The configuration before bring-up: the basic weights and high mark (R348), every other field 0. -/
def CfgImage.basic : CfgImage :=
  { nodeid := 0, dirn := 0, hmark := 49152, fixedw := 0, dirbase := 0, gatebase := 0, logbase := 0, ctrbase := 0,
    weights := 0x1765_3139_8646_5220, towto := 100, ctlbase := 0, marginOff := 0, opp := List.replicate 64 0 }

/-- The module right after power-on, before bring-up (R12, R201, R262, R340, R369, R370). -/
def State.reset : State :=
  { mem := [], poison := [], memBad := [], l2 := [], walks := [], cores := List.replicate Config.nCores Core.reset,
    strings := List.replicate Config.nStrings StringSt.reset, vfs := List.replicate Config.nVfs Vf.reset, launches := [],
    awaited := [], admits := [], rails := List.replicate 4 Rail.reset,
    ports := List.replicate Config.nPorts Port.reset, pinwait := 1000, stealb := 20000, parkth := 8, dispstop := 0, clock := 0,
    img := CfgImage.basic, flash := Config.flash, mr := List.replicate 8 (List.replicate 32 0), up := false, brickd := false, pfMsix := 0, hostData := [], hostPoison := false, frameDims := [], trims := [],
    ruined := [], sramCe := 0, windowAt := 0, peers := [], inputs := [], upsets := [],
    cur := { core := 0, slot := 0, agent := .ostler }, replay := none, regQueue := [], free := 0 }

end Sys2Proof.Machine
end

