-- ==== Sys2Proof/Machine/Memory.lean ====
section
/-!
DEFINITION. Bytes in memory, and the two levels that a global access meets: L1 lines of a core and the value at L2 (R121, R223,
R228, R241, R251).
-/
namespace Sys2Proof.Machine

/-! Memories -/

/-- One byte. -/
def Memory.read (m : Memory) (a : Nat) : Byte :=
  match m with
  | [] => Memory.absent
  | c :: r => if c.1 == a then c.2 else Memory.read r a

/-- Writes one byte and keeps the canonical form. -/
def Memory.write (m : Memory) (a : Nat) (b : Byte) : Memory :=
  match m with
  | [] => if b == Memory.absent then [] else [(a, b)]
  | c :: r =>
    if c.1 < a then c :: Memory.write r a b
    else if c.1 == a then (if b == Memory.absent then r else (a, b) :: r)
    else (if b == Memory.absent then c :: r else (a, b) :: c :: r)

/-- `n` bytes from `a` up. -/
def Memory.bytes (m : Memory) (a n : Nat) : List Byte := (List.range n).map (fun i => m.read (a + i))

/-- The little-endian number in `n` bytes at `a` (R3). -/
def Memory.nat (m : Memory) (a n : Nat) : Nat := leNat (m.bytes a n)

/-- Writes bytes from `a` up. -/
def Memory.writeList (m : Memory) (a : Nat) : List Byte → Memory
  | [] => m
  | b :: bs => Memory.writeList (m.write a b) (a + 1) bs

/-- Writes bytes at the addresses given with them, in order. -/
def Memory.writeCells (m : Memory) (bs : List (Nat × Byte)) : Memory := bs.foldl (fun m c => m.write c.1 c.2) m

/-- Zeroes `n` bytes from `a` up. -/
def Memory.clear (m : Memory) (a n : Nat) : Memory := m.filter (fun c => c.1 < a || a + n ≤ c.1)

/-! Plain accessors of the state -/

def State.core (s : State) (c : Nat) : Core := s.cores.getD c Core.reset
def State.modCore (s : State) (c : Nat) (f : Core → Core) : State := { s with cores := s.cores.modify c f }
def State.wg? (s : State) (c k : Nat) : Option Workgroup := ((s.core c).slots.getD k none)
def State.setSlot (s : State) (c k : Nat) (g : Option Workgroup) : State :=
  s.modCore c (fun co => { co with slots := co.slots.set k g })
def State.modWg (s : State) (c k : Nat) (f : Workgroup → Workgroup) : State :=
  s.modCore c (fun co => { co with slots := co.slots.modify k (Option.map f) })
def State.modWarp (s : State) (c k w : Nat) (f : Warp → Warp) : State :=
  s.modWg c k (fun g => { g with warps := g.warps.modify w f })
def State.modDrv (s : State) (c k : Nat) (f : Driver → Driver) : State := s.modWg c k (fun g => { g with drv := f g.drv })
def State.vf (s : State) (f : Nat) : Vf := s.vfs.getD f Vf.reset
def State.modVf (s : State) (f : Nat) (g : Vf → Vf) : State := { s with vfs := s.vfs.modify f g }
def State.string (s : State) (n : Nat) : StringSt := s.strings.getD n StringSt.reset
def State.modString (s : State) (n : Nat) (f : StringSt → StringSt) : State := { s with strings := s.strings.modify n f }
def State.modOstler (s : State) (c : Nat) (f : Ostler → Ostler) : State :=
  s.modCore c (fun co => { co with ostler := f co.ostler })

/-- The string of a core (R27). -/
def stringOf (c : Nat) : Nat := c / 4

/-- Takes the next value of the free-value counter. -/
def State.bump (s : State) : State := { s with free := s.free + 1 }

/-- One microsecond in cycles (R2). -/
def usCycles : Nat := 1750

/-! Cache lines -/

/-- The line of a physical address (R241). -/
def lineOf (pa : Nat) : Nat := pa / 64

def Core.l1At (co : Core) (ln : Nat) : Option L1Line := co.l1.find? (fun l => l.line == ln)

/-- The line is dirty in L1. -/
def L1Line.isDirty (l : L1Line) : Bool := l.dirty != 0

/-- The core that holds a line pinned against core `c`, if any (R228). -/
def State.holder (s : State) (c ln : Nat) : Option Nat :=
  (List.range s.cores.length).find? fun h =>
    h != c && (match (s.core h).l1At ln with | some l => l.isDirty | none => false)

/-- The first of the lines that another core holds pinned. -/
def State.firstPin (s : State) (c : Nat) (lines : List Nat) : Option Nat :=
  lines.find? (fun ln => (s.holder c ln).isSome)

/-- Field of a function's top-level RCB, at its physical address (R293; log 9). -/
def State.topNat (s : State) (f off n : Nat) : Nat := s.mem.nat ((s.vf f).topRcb + off) n

/-- The key in `State.mem` of a physical address of another module: each module's physical space stands above this module's (R323;
log 23). -/
def peerKey (node pa : Nat) : Nat := 2 ^ 64 * (node + 1) + pa

/-- The lowest port of a function that is up (R339, R367). -/
def State.portFor (s : State) (f : Nat) : Option Nat :=
  let ports := s.topNat f 184 4
  (List.range Config.nPorts).find? fun p => ports / 2 ^ p % 2 == 1 && !(s.ports.getD p Port.reset).down

/-- The module that a function reaches as a node and that answers; none without a port of its own that is up. -/
def State.peer? (s : State) (f node : Nat) : Option Peer :=
  if (s.portFor f).isNone then none else s.peers.find? fun p => p.node == node

/-- The channel of a physical address is in the bitmaps of the function; host memory has none (R339). -/
def State.ownsChannel (s : State) (f pa : Nat) : Bool :=
  if pa < Config.hbmBytes then (s.topNat f (80 + pa / Config.hbmChannel / 8) 1) / 2 ^ (pa / Config.hbmChannel % 8) % 2 == 1
  else if pa < Config.tierBase then false
  else if pa < Config.tierBase + Config.tierBytes then
    (s.topNat f 144 8) / 2 ^ ((pa - Config.tierBase) / Config.tierChannel) % 2 == 1
  else true

/-- The slice of a physical address (R242). -/
def sliceOf (pa : Nat) : Nat :=
  (List.range 8).foldl (fun z i => z ^^^ bitsOf pa (min 51 (11 + 6 * i)) (6 + 6 * i)) 0

/-- The die on which a slice lies (R242). -/
def dieOfSlice (n : Nat) : Nat := n / Config.dieSlices

/-- The home slice of a line (R242, R341): the slice of its address, or that of the list of the one function whose channels it
lies in. -/
def State.homeSlice (s : State) (ln : Nat) : Nat :=
  let pa := 64 * ln
  let owners := if Config.hostBase ≤ pa then [] else
    (List.range Config.nVfs).filter fun f => (s.vf f).topRcb != 0 && s.ownsChannel f pa
  match owners with
  | [f] =>
    let own := (List.range 64).filter fun n => s.topNat f 72 8 / 2 ^ n % 2 == 1
    own.getD (sliceOf pa % own.length) (sliceOf pa)
  | _ => sliceOf pa

/-- The lines of L2 with one more, in its home slice: it takes the place of a line of its set where every way of the set is taken,
and of a marked one only where all are marked (R242). Ways and sets make up the 3 MiB of a slice; how, and the line that goes, are
open (log 44). -/
def l2Enter (l2 : List L2Line) (new : L2Line) (choice : Nat) : List L2Line :=
  let mates := l2.filter fun l => l.slice == new.slice && Config.l2Set l.line == Config.l2Set new.line
  let plain := mates.filter fun l => !l.keep
  let from_ := if plain.isEmpty then mates else plain
  if mates.length < Config.l2Ways then new :: l2
  else new :: l2.filter fun l => some l.line != (from_[choice % from_.length]?).map (·.line)

/-- L2 with its lines changed. A memory word with an uncorrectable error is replaced where a dirty line is written back over it, and
poisons its line where a clean one is gone, so that the next read meets it (R251). -/
def State.setL2 (s : State) (new : List L2Line) : State :=
  if s.memBad.isEmpty then { s with l2 := new }
  else
    let dirtyIn (ls : List L2Line) (ln : Nat) : Bool := ls.any fun l => l.line == ln && l.dirty
    let gone (ln : Nat) : Bool := !dirtyIn s.l2 ln && !new.any fun l => l.line == ln
    let fixed (ln : Nat) : Bool := dirtyIn s.l2 ln && !dirtyIn new ln
    { s with l2 := new, memBad := s.memBad.filter (fun ln => !gone ln && !fixed ln),
             poison := s.memBad.filter (fun ln => gone ln && !s.poison.contains ln) ++ s.poison }

/-- Records an L2 line as accessed by a function (R242). -/
def State.l2Touch (s : State) (ln vf : Nat) (dirty keep : Bool) : State :=
  s.setL2 (match s.l2.find? (fun l => l.line == ln) with
    | some _ => s.l2.map fun l =>
        if l.line == ln then { l with dirty := l.dirty || dirty, keep := l.keep || keep, vf := if dirty then vf else l.vf } else l
    | none =>
      -- a line of another module has its home slice there
      if 2 ^ 58 ≤ ln then s.l2
      else l2Enter s.l2 { line := ln, slice := s.homeSlice ln, dirty, keep, vf } (Config.freeNat s.clock (90000 + ln)))

/-- Marks a line poisoned or clean at L2. -/
def State.setPoison (s : State) (ln : Nat) (p : Bool) : State :=
  { s with poison := if p then (if s.poison.contains ln then s.poison else ln :: s.poison) else s.poison.filter (· != ln) }

/-- A register block that an ostler's physical address falls in: a control block, or a counter block; with the offset. -/
inductive RegBlock where
  | ctl (f off : Nat)
  | counter (n off : Nat)
  deriving DecidableEq, Repr, Inhabited

/-- The register block at a physical address; with CTLBASE or CTRBASE 0 there is none (R355, R362; log 29). -/
def State.regBlock (s : State) (pa : Nat) : Option RegBlock :=
  let a := s.img.ctlbase
  let b := s.img.ctrbase
  if a != 0 && a ≤ pa && pa < a + 128 * Config.nVfs then some (.ctl ((pa - a) / 128) ((pa - a) % 128))
  else if b != 0 && b ≤ pa && pa < b + 64 * Config.nStrings then some (.counter ((pa - b) / 64) ((pa - b) % 64))
  else none

/-- The line holds registers that an ostler has written below device scope (R249, R372). -/
def State.regLine (s : State) (l : L1Line) : Bool := l.vf == 64 && (s.regBlock (64 * l.line)).isSome

/-- The maximal runs of dirty bytes of a line, upwards: address, bytes. -/
def L1Line.dirtyRuns (l : L1Line) : List (Nat × List Byte) :=
  (List.range 64).foldr (fun i acc =>
    if l.dirty.getLsbD i then
      match acc with
      | (a, bs) :: r => if a == 64 * l.line + i + 1 then (64 * l.line + i, l.data.getD i 0 :: bs) :: r
          else (64 * l.line + i, [l.data.getD i 0]) :: acc
      | [] => [(64 * l.line + i, [l.data.getD i 0])]
    else acc) []

/-- Writes the dirty bytes of an L1 line to L2 (R241); those of a register line go to the registers, after the memory lines that are
written back with it (log 6). -/
def State.writeBack (s : State) (l : L1Line) : State :=
  if s.regLine l then { s with regQueue := s.regQueue ++ l.dirtyRuns } else
  let bs := (List.range 64).filterMap fun i => if l.dirty.getLsbD i then some (64 * l.line + i, l.data.getD i 0) else none
  let s := { s with mem := Memory.writeCells s.mem bs }
  let s := if l.poison then s.setPoison l.line true else if l.dirty == BitVec.allOnes 64 then s.setPoison l.line false else s
  s.l2Touch l.line l.vf true false

/-- The line after its write-back. -/
def L1Line.cleaned (l : L1Line) : L1Line := { l with dirty := 0, streams := 0, owners := 0 }

/-- Writes back every dirty line of a core that satisfies `p`, and keeps the lines clean. -/
def State.writeBackIf (s : State) (c : Nat) (p : L1Line → Bool) : State :=
  let ls := (s.core c).l1
  let s := ls.foldl (fun s l => if l.isDirty && p l then s.writeBack l else s) s
  s.modCore c (fun co => { co with l1 := co.l1.map fun l => if l.isDirty && p l then l.cleaned else l })

/-- A release at device scope or wider on the streams of `t` by an agent of core `c` (R223). -/
def State.releaseDev (s : State) (c : Nat) (t : W16) : State := s.writeBackIf c (fun l => l.streams &&& t != 0)

/-- The L1 line with its clean bytes read again from L2. -/
def L1Line.refreshed (m : Memory) (poison : List Nat) (l : L1Line) : L1Line :=
  { l with data := (List.range 64).map fun i => if l.dirty.getLsbD i then l.data.getD i 0 else m.read (64 * l.line + i)
           poison := l.poison || (l.dirty != BitVec.allOnes 64 && poison.contains l.line) }

/-- An acquire at device scope or wider (R223): clean copies are dropped, clean bytes of dirty lines are read again. -/
def State.acquireDev (s : State) (c : Nat) : State :=
  s.modCore c (fun co => { co with l1 := (co.l1.filter (·.isDirty)).map (L1Line.refreshed s.mem s.poison) })

/-- Brings a line into a core's L1, as its most recent line, evicting the least recent of a full set (R241). -/
def State.fill (s : State) (c vf ln : Nat) : State :=
  let co := s.core c
  match co.l1At ln with
  | some l => s.modCore c (fun co => { co with l1 := l :: co.l1.filter (fun m => m.line != ln) })
  | none =>
    let new : L1Line := { line := ln, data := s.mem.bytes (64 * ln) 64, dirty := 0, streams := 0,
                          poison := s.poison.contains ln, vf := vf, owners := 0 }
    let same := co.l1.filter (fun m => m.line % Config.l1Sets == ln % Config.l1Sets)
    if same.length < Config.l1Ways then s.modCore c (fun co => { co with l1 := new :: co.l1 })
    else
      match same.getLast? with
      | some v =>
        let s := if v.isDirty then s.writeBack v else s
        s.modCore c (fun co => { co with l1 := new :: co.l1.filter (fun m => m.line != v.line) })
      | none => s

/-- What one access carries besides its bytes: core, function, slot, scope, stream, CPOL. -/
structure Access where
  core  : Nat
  slot  : Nat
  vf    : Nat
  scope : Nat
  sid   : Nat
  cpol  : Nat
  deriving DecidableEq, Repr, Inhabited

/-- A byte as core `c` reads it at device scope: its own dirty bytes, else L2. R121 uses no copy of L1 there, and R222 binds the
access to the core's own earlier stores: the model reads the dirty bytes where they are and leaves the pin (log 45). -/
def State.devByte (s : State) (c pa : Nat) : Byte :=
  match (s.core c).l1At (lineOf pa) with
  | some l => if l.dirty.getLsbD (pa % 64) then l.data.getD (pa % 64) 0 else s.mem.read pa
  | none => s.mem.read pa

/-- A byte as core `c` reads it at warp or workgroup scope: an L1 copy, else L2. -/
def State.l1Byte (s : State) (c pa : Nat) : Byte :=
  match (s.core c).l1At (lineOf pa) with
  | some l => l.data.getD (pa % 64) 0
  | none => s.mem.read pa

/-- A published frame that a store has hit has not been retired since. -/
def State.ruinLive (s : State) (r : Nat × Nat × Nat × Nat) : Bool := s.mem.nat (s.img.dirbase + 32 * r.1 + 16) 2 == 256 * r.2.1 + 2

/-- A store has hit the published frame that holds the byte, and the frame has not been retired since (R320). -/
def State.ruinedAt (s : State) (pa : Nat) : Bool :=
  s.ruined.any fun r => r.2.2.1 ≤ pa && pa < r.2.2.1 + r.2.2.2 && s.ruinLive r

/-- A byte as the access reads it (R121). -/
def State.accByte (s : State) (a : Access) (pa : Nat) : Byte :=
  if s.ruinedAt pa then Config.freeBits 8 s.free (2 ^ 51 + pa)
  else if a.scope < 2 then s.l1Byte a.core pa else s.devByte a.core pa

/-- The byte would reach the access poisoned (R253): at device scope a byte that is not dirty in the core's L1 comes from L2. -/
def State.bytePoison (s : State) (a : Access) (pa : Nat) : Bool :=
  match (s.core a.core).l1At (lineOf pa) with
  | some l => if a.scope < 2 || l.dirty.getLsbD (pa % 64) then l.poison else s.poison.contains (lineOf pa)
  | none => s.poison.contains (lineOf pa)

/-- Some of the bytes would reach the access poisoned. -/
def State.accPoison (s : State) (a : Access) (pas : List Nat) : Bool := pas.any (s.bytePoison a)

/-- The lines among those of a load that it needs beyond the core's own L1 copies (R121): a hit meets no pin. -/
def State.missing (s : State) (a : Access) (lines : List Nat) : List Nat :=
  if a.scope < 2 then lines.filter fun ln => ((s.core a.core).l1At ln).isNone else lines

/-- What a read leaves behind: an L1 copy unless the scope or CPOL forbids it, and the keep mark (R121). -/
def State.afterRead (s : State) (a : Access) (lines : List Nat) : State :=
  lines.foldl (fun s ln =>
    let s := if a.scope < 2 && a.cpol != 1 then s.fill a.core a.vf ln else s
    if a.cpol == 2 then s.l2Touch ln a.vf false true else s) s

/-- Sets bytes in an L1 line; `mark` makes them dirty on a stream. -/
def L1Line.put (l : L1Line) (off : Nat) (b : Byte) (mark : Bool) (sid slot : Nat) : L1Line :=
  if mark then
    { l with data := l.data.set off b, dirty := l.dirty ||| BitVec.ofNat 64 (2 ^ off),
             streams := l.streams ||| BitVec.ofNat 16 (2 ^ sid), owners := l.owners ||| BitVec.ofNat 8 (2 ^ slot) }
  else { l with data := l.data.set off b }

/-- One byte of a store (R121): kept dirty in L1 below device scope, else written through. -/
def State.putByte (s : State) (a : Access) (pa : Nat) (b : Byte) : State :=
  let ln := lineOf pa
  if a.scope < 2 && a.cpol != 1 then
    let s := s.fill a.core a.vf ln
    s.modCore a.core fun co => { co with l1 := co.l1.map fun l => if l.line == ln then l.put (pa % 64) b true a.sid a.slot else l }
  else
    let s := { s with mem := s.mem.write pa b }
    let s := s.l2Touch ln a.vf true false
    s.modCore a.core fun co => { co with l1 := co.l1.map fun l => if l.line == ln then l.put (pa % 64) b false 0 0 else l }

/-- The lines that a set of bytes covers whole (R251). -/
def wholeLines (bs : List (Nat × Byte)) : List Nat :=
  let lines := (bs.map (fun c => lineOf c.1)).eraseDups
  if bs.length < 64 then [] else
    lines.filter fun ln => (List.range 64).all fun i => bs.any fun c => c.1 == 64 * ln + i

/-- A store of bytes at physical addresses. A line that it writes whole loses its poison (R251). -/
def State.store (s : State) (a : Access) (bs : List (Nat × Byte)) : State :=
  let s := bs.foldl (fun s c => s.putByte a c.1 c.2) s
  let s := if a.cpol == 2 then (bs.map (fun c => lineOf c.1)).eraseDups.foldl (fun s ln => s.l2Touch ln a.vf false true) s else s
  (wholeLines bs).foldl (fun s ln =>
    let s := if a.scope < 2 && a.cpol != 1 then s else s.setPoison ln false
    s.modCore a.core fun co => { co with l1 := co.l1.map fun l => if l.line == ln then { l with poison := false } else l }) s

/-- A write at L2 that no core makes: the host, a peer, or the device's own bookkeeping (R236). A line that it writes whole loses
its poison (R251). -/
def State.writeL2 (s : State) (pa : Nat) (bs : List Byte) : State :=
  let s := { s with mem := s.mem.writeList pa bs }
  (List.range ((pa + bs.length + 63) / 64 - pa / 64)).foldl (fun s i =>
    let ln := pa / 64 + i
    let s := if pa ≤ 64 * ln && 64 * ln + 64 ≤ pa + bs.length then s.setPoison ln false else s
    s.l2Touch ln 64 true false) s

/-- Writes a 64-bit word at L2. -/
def State.writeL2Nat (s : State) (pa n v : Nat) : State := s.writeL2 pa (leBytes n v)

/-- Bytes that the device changes for every reader: at L2 and in every L1 copy, with no pin made or ended. -/
def State.everywhere (s : State) (bs : List (Nat × Byte)) : State :=
  let put (l : L1Line) : L1Line :=
    { l with data := bs.foldl (fun d b => if lineOf b.1 == l.line then d.set (b.1 % 64) b.2 else d) l.data }
  { s with mem := s.mem.writeCells bs, cores := s.cores.map fun co => if co.l1.isEmpty then co else { co with l1 := co.l1.map put } }

/-- Ends every pin on a line by writing it back, for an access that never waits (R229). -/
def State.forceWriteBack (s : State) (ln : Nat) : State :=
  (List.range s.cores.length).foldl (fun s c => s.writeBackIf c (fun l => l.line == ln)) s

/-- A physical address that memory answers at (R249, R339). -/
def populated (pa : Nat) : Bool := pa < Config.hbmBytes || Config.tierBase ≤ pa

end Sys2Proof.Machine
end

