-- ==== Sys2Proof/Machine/Xlate.lean ====
section
/-!
DEFINITION. Address translation (R244 to R247, R249, R339, R341) and the accesses that the device makes for itself through a
function's table (R296).
-/
namespace Sys2Proof.Machine

/-- What an access needs of a page (R246). -/
inductive Need where
  | read | write | rw | fetch
  deriving DecidableEq, Repr, Inhabited

/-- How a walk fails (R246). -/
inductive XErr where
  | addr | tran
  deriving DecidableEq, Repr, Inhabited

/-- A virtual address is canonical: bits [63:56] are all equal (R120). -/
def canonical (va : Nat) : Bool := va < 2 ^ 56 || (2 ^ 64 - 2 ^ 56 ≤ va && va < 2 ^ 64)

/-- Index of a level's table (R244). -/
def walkIndex (lvl va : Nat) : Nat := if lvl == 0 then bitsOf va 20 16 else bitsOf va (12 + 9 * lvl + 8) (12 + 9 * lvl)

/-- Bytes that a leaf at a level maps (R244). -/
def pageSize (lvl : Nat) : Nat := if lvl == 0 then 65536 else 2 ^ (12 + 9 * lvl)

/-- The permission bits of an entry (R245) give the access what it needs (R246). -/
def Need.granted (need : Need) (e : Nat) : Bool :=
  match need with
  | .read => e / 4 % 2 == 1
  | .write => e / 8 % 2 == 1
  | .rw => e / 4 % 2 == 1 && e / 8 % 2 == 1
  | .fetch => e / 16 % 2 == 1

/-- A walk from a table of level `lvl` down (R246): the leaf as a TLB entry of function `f`, or how it fails. An absent leaf that
lacks the permission gives ADDR, as steps 3 and 4 of R120 order the two (log 42). -/
def walkFrom (m : Memory) (f va : Nat) (need : Need) : Nat → Nat → Except XErr TlbEntry
  | lvl, table =>
    let e := m.nat (table + 8 * walkIndex lvl va) 8
    let adr := bitsOf e 51 8 * 256
    let leaf := e / 32 % 2 == 1
    if e % 2 == 0 then .error .addr
    else if e / 2 ^ 52 != 0 || bitsOf e 7 6 != 0 then .error .addr
    else if leaf then
      if 3 ≤ lvl || adr % pageSize lvl != 0 then .error .addr
      else if e / 2 % 2 == 0 then .error (if need.granted e then .tran else .addr)
      else .ok { vf := f, va := va / pageSize lvl * pageSize lvl, size := pageSize lvl, pa := adr,
                 x := e / 16 % 2 == 1, w := e / 8 % 2 == 1, rd := e / 4 % 2 == 1 }
    else
      match lvl with
      | 0 => .error .addr
      | n + 1 =>
        if adr % (if n == 0 then 256 else 4096) != 0 then .error .addr
        else if e / 2 % 2 == 0 then .error .tran
        else walkFrom m f va need n adr

/-- The tables below the root that a walk that succeeds has passed, each with its level. -/
def tablesFrom (m : Memory) (va : Nat) : Nat → Nat → List (Nat × Nat)
  | 0, _ => []
  | n + 1, table =>
    let e := m.nat (table + 8 * walkIndex (n + 1) va) 8
    if e / 32 % 2 == 1 then [] else (n, bitsOf e 51 8 * 256) :: tablesFrom m va n (bitsOf e 51 8 * 256)

/-- Bytes of addresses that a table of a level translates (R244). -/
def tableSpan (lvl : Nat) : Nat := 2 ^ (21 + 9 * lvl)

/-- The die of a core (R1). -/
def dieOf (c : Nat) : Nat := c / Config.dieCores

/-- A whole walk for a function. -/
def State.walk (s : State) (f va : Nat) (need : Need) : Except XErr TlbEntry :=
  if !canonical va || (s.vf f).topRcb == 0 then .error .addr
  else walkFrom s.mem f va need 4 (s.topNat f 8 8)

/-- The lowest table for an address that the walk caches of a die hold (R243, R247). -/
def State.cachedTable (s : State) (die f va : Nat) : Option WalkEntry :=
  (List.range 4).findSome? fun lvl =>
    s.walks.find? fun w => w.die == die && w.vf == f && w.lvl == lvl && w.va == va / tableSpan lvl * tableSpan lvl

/-- A walk by a walker of a die: from the lowest table that its walk caches hold, else from the root. -/
def State.dieWalk (s : State) (die f va : Nat) (need : Need) : Except XErr TlbEntry :=
  match s.cachedTable die f va with
  | some w => if !canonical va then .error .addr else walkFrom s.mem f va need w.lvl w.table
  | none => s.walk f va need

/-- The tables that a walk of a die has passed enter its walk caches (log 4). -/
def State.keepTables (s : State) (die f va : Nat) : State :=
  let path := match s.cachedTable die f va with
    | some w => tablesFrom s.mem va w.lvl w.table
    | none => tablesFrom s.mem va 4 (s.topNat f 8 8)
  let new := path.map fun p =>
    ({ die := die, vf := f, lvl := p.1, va := va / tableSpan p.1 * tableSpan p.1, table := p.2 } : WalkEntry)
  { s with walks := new ++ s.walks }

/-- The leaf gives the permission. -/
def TlbEntry.allows (e : TlbEntry) : Need → Bool
  | .read => e.rd
  | .write => e.w
  | .rw => e.rd && e.w
  | .fetch => e.x

/-- The TLB entry of a core that maps a function's address. -/
def Core.tlbHit (co : Core) (f va : Nat) : Option TlbEntry :=
  co.tlb.find? (fun e => e.vf == f && e.va ≤ va && va < e.va + e.size)

/-- The node and the line that a leaf address reaches which names no part of the module's map (R249, R323; log 23). -/
def farLine (pa : Nat) : Option (Nat × Nat) :=
  if pa < Config.hbmBytes || Config.tierBase ≤ pa then none else Config.peerAt (pa / 64)

/-- Where such an address lies in the memory of another module that answers. -/
def State.farPa (s : State) (f pa : Nat) : Option Nat :=
  (farLine pa).bind fun q => (s.peer? f q.1).map fun p => peerKey p.node (64 * q.2 + pa % 64)

/-- The physical address through a leaf, after the checks of R246 and R339. -/
def State.leafPa (s : State) (f va : Nat) (need : Need) (e : TlbEntry) : Except XErr Nat :=
  let pa := e.pa + (va - e.va)
  if !e.allows need then .error .addr
  else if s.ownsChannel f pa then .ok pa
  else match s.farPa f pa with | some x => .ok x | none => .error .addr

/-- The leaf of an address, as a core's agents find it. -/
def State.leaf? (s : State) (c f va : Nat) (need : Need) : Option TlbEntry :=
  match (s.core c).tlbHit f va with
  | some e => some e
  | none => (s.dieWalk (dieOf c) f va need).toOption

/-- The address reaches a module that does not answer, or that the function has no way to (R339). -/
def State.farCut (s : State) (c f va : Nat) (need : Need) : Bool :=
  match s.leaf? c f va need with
  | some e => e.allows need && (match farLine (e.pa + (va - e.va)) with | some q => (s.peer? f q.1).isNone | none => false)
  | none => false

/-- Translation by a core's agents: its TLB first, then a walk. -/
def State.translate (s : State) (c f va : Nat) (need : Need) : Except XErr Nat :=
  if !canonical va then .error .addr else
  match (s.core c).tlbHit f va with
  | some e => s.leafPa f va need e
  | none =>
    match s.dieWalk (dieOf c) f va need with
    | .error x => .error x
    | .ok e => s.leafPa f va need e

/-- A leaf enters a TLB (R243); in a full one it takes the place of an entry that the model leaves open (log 4). -/
def Core.tlbAdd (co : Core) (e : TlbEntry) (choice : Nat) : Core :=
  if co.tlb.length < Config.tlbEntries then { co with tlb := e :: co.tlb }
  else { co with tlb := e :: (co.tlb.eraseIdx (choice % Config.tlbEntries)).take (Config.tlbEntries - 1) }

/-- Enters the leaf of an address that translated into the core's TLB, and its tables into the walk caches (R243, R246). -/
def State.tlbFill (s : State) (c f va : Nat) : State :=
  match (s.core c).tlbHit f va with
  | some _ => s
  | none =>
    match s.dieWalk (dieOf c) f va .read with
    | .error _ => s
    | .ok e => (s.keepTables (dieOf c) f va).modCore c (fun co => co.tlbAdd e (Config.freeNat s.clock (2 ^ 60 + va / 65536 * 256 + c)))

/-- Translation in a context: none is physical (R249), some f is function f. -/
def State.xlate (s : State) (c : Nat) (ctx : Option Nat) (va : Nat) (need : Need) : Except XErr Nat :=
  match ctx with
  | none => if populated va then .ok va else .error .addr
  | some f => s.translate c f va need

def State.xlateFill (s : State) (c : Nat) (ctx : Option Nat) (va : Nat) : State :=
  match ctx with
  | none => s
  | some f => s.tlbFill c f va

/-- The bytes of a range by 64-byte pieces: physical addresses in order, or the first failing address. -/
def xlateList (x : Nat → Except XErr Nat) : List (Nat × Nat) → Except (XErr × Nat) (List Nat)
  | [] => .ok []
  | (va, n) :: r =>
    match x va with
    | .error e => .error (e, va)
    | .ok pa =>
      match xlateList x r with
      | .error e => .error e
      | .ok l => .ok ((List.range n).map (pa + ·) ++ l)

/-- A range cut at 64-byte boundaries. -/
def pieces (va n : Nat) : List (Nat × Nat) :=
  (List.range ((va + n + 63) / 64 - va / 64)).map fun i =>
    let lo := max va (64 * (va / 64 + i))
    (lo, min (va + n) (64 * (va / 64 + i) + 64) - lo)

/-- The physical addresses of `n` bytes at `va`, in order. -/
def State.xlateRange (s : State) (c : Nat) (ctx : Option Nat) (va n : Nat) (need : Need) :
    Except (XErr × Nat) (List Nat) :=
  xlateList (fun a => s.xlate c ctx (a % 2 ^ 64) need) (pieces va n)

def State.fillRange (s : State) (c : Nat) (ctx : Option Nat) (va n : Nat) : State :=
  (pieces va n).foldl (fun s p => s.xlateFill c ctx p.1) s

/-! The device's own accesses through a function's table -/

/-- Translation without a core's TLB. -/
def State.devXlate (s : State) (f va : Nat) (need : Need) : Except XErr Nat :=
  match s.walk f va need with
  | .error x => .error x
  | .ok e => s.leafPa f va need e

/-- A number of `n` bytes at a function's address; none where it does not translate. -/
def State.dev? (s : State) (f va n : Nat) : Option Nat :=
  match s.devXlate f (va % 2 ^ 64) .read with
  | .ok pa => some (s.mem.nat pa n)
  | .error _ => none

def State.dev (s : State) (f va n : Nat) : Nat := (s.dev? f va n).getD 0

/-- Dirty tracking (R340): a device write of a function to a tracked virtual address sets its page's bit. -/
def State.track (s : State) (f va : Nat) : State :=
  let v := s.vf f
  if v.dirtyMap == 0 || va < v.dirtyVa.toNat then s else
    let k := (va - v.dirtyVa.toNat) / 65536
    if v.dirtyN.toNat ≤ k then s else
      let a := v.dirtyMap.toNat + k / 8
      s.writeL2 a [s.mem.read a ||| BitVec.ofNat 8 (2 ^ (k % 8))]

/-- Writes a number of `n` bytes at a function's address, where it translates, with dirty tracking. -/
def State.devWrite (s : State) (f va n v : Nat) : State :=
  match s.devXlate f (va % 2 ^ 64) .write with
  | .ok pa => (s.writeL2Nat pa n v).track f (va % 2 ^ 64)
  | .error _ => s

/-- Dirty tracking of a range. -/
def State.trackRange (s : State) (f va n : Nat) : State :=
  if (s.vf f).dirtyMap == 0 then s
  else (List.range ((va + n + 65535) / 65536 - va / 65536)).foldl (fun s i => s.track f (max va (65536 * (va / 65536 + i)))) s

end Sys2Proof.Machine
end

