-- ==== Sys2Proof/Machine/Launches.lean ====
section
/-!
DEFINITION. Regions, context images, launches and the life of a workgroup (R285 to R302, R377): what its start sets up, what its
end and a kill do.
-/
namespace Sys2Proof.Machine

/-! Regions (R293, R294) -/

/-- Where an inheritable field lies in the RCB: offset, bytes, low bit, bits. -/
def rcbField : Nat → Option (Nat × Nat × Nat × Nat)
  | 0 => some (64, 8, 0, 64)
  | 1 => some (72, 8, 0, 64)
  | 2 => some (80, 64, 0, 512)
  | 3 => some (144, 8, 0, 64)
  | 4 => some (152, 32, 0, 256)
  | 5 => some (184, 4, 0, 18)
  | 6 => some (192, 4, 0, 32)
  | 7 => some (196, 4, 0, 32)
  | 8 => some (200, 4, 0, 32)
  | 9 => some (204, 4, 0, 32)
  | 10 => some (16, 4, 16, 2)
  | 11 => some (16, 4, 1, 1)
  | 12 => some (16, 4, 8, 1)
  | 13 => some (40, 8, 0, 64)
  | 14 => some (48, 8, 0, 64)
  | _ => none

/-- A read of memory through some translation: address and byte count. -/
abbrev Reader := Nat → Nat → Option Nat

/-- The RCBs from a region up to its top level: at most 8, all valid and readable, each at a multiple of 256 (R293, R294). -/
def rcbChain (rd : Reader) : Nat → Nat → Option (List Nat)
  | 0, _ => none
  | n + 1, a =>
    match rd (a + 16) 4, rd a 8 with
    | some w, some p =>
      if w % 2 == 0 || a % 256 != 0 then none
      else if p == 0 then some [a]
      else (rcbChain rd n p).map (a :: ·)
    | _, _ => none

/-- A field of one RCB as it stands. -/
def rcbOwn (rd : Reader) (a k : Nat) : Nat :=
  match rcbField k with
  | some (off, n, lo, w) => (((rd (a + off) n).getD 0) / 2 ^ lo) % 2 ^ w
  | none => 0

/-- The effective value of field `k` along a chain (R294). -/
def rcbEff (rd : Reader) (k : Nat) : List Nat → Nat
  | [] => 0
  | [a] => rcbOwn rd a k
  | a :: r =>
    let up := rcbEff rd k r
    if ((rd (a + 22) 2).getD 0) / 2 ^ k % 2 == 0 then up
    else
      let own := rcbOwn rd a k
      if k ≤ 5 || k == 12 then Nat.land own up
      else if k == 6 || k == 7 || k == 9 then min own up
      else own

/-- Reads through a function's table for the device. -/
def State.reader (s : State) (f : Nat) : Reader := fun a n => s.dev? f a n

/-- The chain of a region of a function. -/
def State.chain (s : State) (f region : Nat) : Option (List Nat) := rcbChain (s.reader f) 8 region

/-- The effective value of a region's field; 0 for an invalid region. -/
def State.eff (s : State) (f region k : Nat) : Nat :=
  match s.chain f region with
  | some ch => rcbEff (s.reader f) k ch
  | none => 0

/-! The kernel header (R287) -/

/-- The role words of a header (R287). -/
def hdrRole (rd : Nat → Nat → Nat) (k : Nat) : Role :=
  let w := rd (48 + 8 * k) 8
  { count := bitsOf w 8 0, pcls := bitsOf w 11 10, stchk := bitsOf w 12 12 == 1, unifx := bitsOf w 13 13 == 1,
    decl := bitsOf w 14 14 == 1, entry := bitsOf w 63 32 }

/-- The members of a barrier: its own set, or the default (R287). -/
def hdrMembers (rd : Nat → Nat → Nat) (warps k : Nat) : BitVec 17 :=
  let w := rd (128 + 4 * k) 4 % 2 ^ 17
  let cnt := rd (88 + k) 1
  if w != 0 then BitVec.ofNat 17 w
  else BitVec.ofNat 17 (2 ^ (min cnt warps) - 1 + (if cnt == warps + 1 then 65536 else 0))

/-- Number of ones among the low `n` bits. -/
def popNat (n x : Nat) : Nat := ((List.range n).filter (fun i => x / 2 ^ i % 2 == 1)).length

/-- Granules of a register count (R14). -/
def granules (count : Nat) : Nat := (count + 7) / 8

/-- The header's fields, read as an offset and a width. -/
def hdrFields (rd : Nat → Nat → Nat) : KHeader :=
  let warps := rd 80 1
  { wcode := rd 16 8, drvoff := rd 24 8, fbtab := rd 40 8, fbn := rd 120 8 % 512, affbase := BitVec.ofNat 64 (rd 112 8),
    objects := rd 104 1 / 8 % 2 == 1, relay := rd 104 1 / 4 % 2 == 1, cores := rd 104 1 / 2 % 2 == 1,
    idemp := rd 104 1 % 2 == 1, barcnt := (List.range 16).map (fun k => rd (88 + k) 1),
    members := (List.range 16).map (hdrMembers rd warps), scratch := rd 84 4, tiles := rd 81 1, warps := warps,
    roles := (List.range 4).map (hdrRole rd) }

/-- Granules that a workgroup's warps start with (R15). -/
def KHeader.pool (h : KHeader) : Nat := h.warps * granules (h.roles.getD 0 default).count

/-- The header is valid (R15, R62, R287). -/
def hdrValid (rd : Nat → Nat → Nat) : Bool :=
  let h := hdrFields rd
  let decl := h.roles.map (·.decl)
  rd 0 8 == 0x1_484B_4C5A && (List.range 8).all (fun i => rd (192 + 8 * i) 8 == 0)
    && rd 120 8 / 512 == 0 && rd 104 8 / 16 == 0 && rd 82 2 == 0
    && (List.range 4).all (fun k => rd (48 + 8 * k) 4 / 2 ^ 15 == 0 && rd (48 + 8 * k) 4 / 512 % 2 == 0)
    && (List.range 16).all (fun k => rd (128 + 4 * k) 4 / 2 ^ 17 == 0)
    && (List.range 16).all (fun k =>
          let m := rd (128 + 4 * k) 4
          m == 0 || (m % 65536 / 2 ^ h.warps == 0 && popNat 17 m == h.barcnt.getD k 0 && h.barcnt.getD k 0 != 0))
    && h.barcnt.all (· ≤ h.warps + 1)
    && rd 84 4 % 8 == 0 && h.scratch ≤ 524288 && h.tiles ≤ 32 && 1 ≤ h.warps && h.warps ≤ 16 && h.fbn ≤ 256
    && h.roles.all (fun r => r.count ≤ 256 && r.entry % 64 == 0)
    && rd 16 8 % 64 == 0 && rd 24 8 % 64 == 0 && rd 32 8 % 64 == 0 && (h.fbn != 0 || h.fbtab == 0)
    && decl.getD 0 false && (decl.getD 1 false || !decl.getD 2 false) && (decl.getD 2 false || !decl.getD 3 false)
    && h.pool ≤ Config.nGranules

/-! Launches and images -/

/-- A number in a launch's image. -/
def Launch.rd (l : Launch) (s : State) (off n : Nat) : Nat := s.dev l.vf (l.image.toNat + off) n
def Launch.wr (l : Launch) (s : State) (off n v : Nat) : State := s.devWrite l.vf (l.image.toNat + off) n v

/-- The line of an offset of a launch's image is poisoned (R360). -/
def Launch.poisoned (l : Launch) (s : State) (off : Nat) : Bool :=
  match s.devXlate l.vf ((l.image.toNat + off) % 2 ^ 64) .read with
  | .ok pa => s.poison.contains (lineOf pa)
  | .error _ => false

/-- Workgroups of the image (R285). -/
def Launch.n (l : Launch) (s : State) : Nat := l.rd s 16 4 * l.rd s 20 4 * l.rd s 24 4
def Launch.dtab (l : Launch) (s : State) : Nat := l.rd s 48 8
def Launch.recOff (l : Launch) (s : State) (c : Nat) : Nat := l.rd s 32 8 + c * l.rd s 40 8
def Launch.hdrRd (l : Launch) (s : State) : Nat → Nat → Nat := fun off n => l.rd s (64 + off) n

/-- The launch with a LAUNCHID: the live one, else the first that has ended. A function-level reset hands the numbers out again. -/
def State.launch? (s : State) (f lid : Nat) : Option Launch :=
  match s.launches.find? fun l => l.vf == f && l.lid == lid && l.endedAs == none with
  | some l => some l
  | none => s.launches.find? fun l => l.vf == f && l.lid == lid

/-- Changes a live launch. -/
def State.modLaunch (s : State) (f lid : Nat) (g : Launch → Launch) : State :=
  { s with launches := s.launches.map fun l => if l.vf == f && l.lid == lid && l.endedAs == none then g l else l }

/-- Every resident workgroup with its place. -/
def State.residents (s : State) : List (Nat × Nat × Workgroup) :=
  s.cores.zipIdx.flatMap fun p => p.1.slots.zipIdx.filterMap fun q => q.1.map fun g => (p.2, q.2, g)

/-- The workgroup's launch. -/
def State.launchOf (s : State) (g : Workgroup) : Option Launch := s.launch? g.vf g.lid

/-! MSI-X and completion (R300, R366) -/

def State.raiseMsix (s : State) (f : Nat) : State := s.modVf f (fun v => { v with msix := v.msix + 1 })

/-- The child of a batch command is done: its status and LAUNCHID go into the command (R179). -/
def Cmd.childDone (image lid st : Nat) (q : Cmd) : Cmd :=
  if q.pend == .child image then { q with pend := .none, status := st, data := lid * 2 ^ 16 } else q

def Workgroup.childDone (image lid st : Nat) (g : Workgroup) : Workgroup :=
  { g with open_ := g.open_.map (Cmd.childDone image lid st)
           batches := g.batches.map fun b => { b with cmds := b.cmds.map (Cmd.childDone image lid st) } }

/-- Every workgroup of a function, saved ones included, learns that a child launch has completed. -/
def State.childDone (s : State) (f image lid st : Nat) : State :=
  let s := s.residents.foldl (fun s p => if p.2.2.vf == f then s.modWg p.1 p.2.1 (Workgroup.childDone image lid st) else s) s
  { s with awaited := s.awaited.map fun a => if a.vf == f && a.image == image then { a with result := some (lid, st) } else a }

/-- The completion signal of a launch, and its vector (R300, R366). -/
def State.signal (s : State) (f sig lid st : Nat) : State :=
  if sig == 0 then s
  else (s.devWrite f sig 8 (2 ^ 63 + lid * 256 + st)).raiseMsix f

/-! The object directory of a region (R305, R306): what launches need of it -/

/-- The spill area of a region: base, entries, slot bytes, data offset; none where the region owns no objects. -/
def State.spill? (s : State) (f region : Nat) : Option (Nat × Nat × Nat × Nat) :=
  let a := s.eff f region 13
  if a == 0 then none else
    let ent := s.dev f (a + 8) 4
    let ssz := s.dev f (a + 12) 4
    let off := s.dev f (a + 16) 8
    let ok := s.dev f a 8 == 0x1_4A42_4F5A && 16 ≤ ent && ent ≤ 65536 && 2 ^ Nat.log2 ent == ent && 1 ≤ ssz && ssz ≤ 8
      && off % 65536 == 0 && 64 + 128 * ent ≤ off && (List.range 5).all (fun i => s.dev f (a + 24 + 8 * i) 8 == 0)
    if ok then some (a, ent, ssz * 65536, off) else none

/-- A number in directory entry `i`. -/
def State.dirNat (s : State) (f a i off n : Nat) : Nat := s.dev f (a + 64 + 128 * i + off) n
def State.dirWrite (s : State) (f a i off n v : Nat) : State := s.devWrite f (a + 64 + 128 * i + off) n v

/-- Entries of a region's directory that are in use. -/
def State.dirUsed (s : State) (f region : Nat) : List (Nat × Nat) :=
  match s.spill? f region with
  | none => []
  | some (a, ent, _) => (List.range ent).filterMap fun i => if s.dirNat f a i 16 1 % 8 != 0 then some (a, i) else none

/-- The regions of a function that launches name. -/
def State.regionsOf (s : State) (f : Nat) : List Nat :=
  ((s.launches.filter fun l => l.vf == f).map (·.region.toNat)).eraseDups

/-- Objects owned by a launch pass to their region (R307): BERTHED, SPILLED and SHADOW ones, in every directory of its function,
since `objhand.lch` may have handed over an object of another region. -/
def State.objectsToRegion (s : State) (f lid : Nat) : State :=
  ((s.regionsOf f).flatMap (s.dirUsed f)).eraseDups.foldl (fun s p =>
    if s.dirNat f p.1 p.2 24 8 == lid * 2 ^ 32 && s.dirNat f p.1 p.2 16 1 % 8 ≤ 3 then s.dirWrite f p.1 p.2 24 8 1 else s) s

/-- The bindings of one workgroup are cleared (R307). -/
def State.clearBindings (s : State) (f region lid wgnum : Nat) : State :=
  (s.dirUsed f region).foldl (fun s p =>
    (List.range 8).foldl (fun s b =>
      let w := s.dirNat f p.1 p.2 (64 + 8 * b) 8
      if w / 128 % 2 == 1 && bitsOf w 63 32 == lid && bitsOf w 31 8 == wgnum then s.dirWrite f p.1 p.2 (64 + 8 * b) 8 0
      else s) s) s

/-- The capture map's words of workgroup c (R326). -/
def Launch.captureOff (l : Launch) (s : State) (c : Nat) : Nat := l.dtab s + 64 + 8 * ((l.n s + 63) / 64) + 64 * c

/-- The two bits of entry e in the capture map of workgroup c, and a write of them (R326). -/
def Launch.mapBits (l : Launch) (s : State) (c e : Nat) : Nat := l.rd s (l.captureOff s c + e / 4) 1 / 2 ^ (2 * (e % 4)) % 4
def Launch.setMapBits (l : Launch) (s : State) (c e v : Nat) : State :=
  let a := l.captureOff s c + e / 4
  l.wr s a 1 (l.rd s a 1 + v * 2 ^ (2 * (e % 4)) - l.mapBits s c e * 2 ^ (2 * (e % 4)))

/-- The captures that the map of workgroup c holds; where its last save has had none to write, no map need stand there. -/
def Launch.savedCaptures (l : Launch) (s : State) (c : Nat) : List (Nat × Bool) :=
  if l.mapless.contains c then [] else (List.range 256).filterMap fun e => let b := l.mapBits s c e; if b % 2 == 1 then some (e, b / 2 == 1) else none

/-- Captures are released (R192, R325): the counts of their slots fall. -/
def State.dropRefs (s : State) (f region : Nat) (cs : List (Nat × Bool)) : State :=
  let t := s.eff f region 14
  cs.foldl (fun s c =>
    let a := t + 64 * c.1 + (if c.2 then 36 else 32)
    s.devWrite f a 4 (s.dev f a 4 - 1)) s

/-- The captures of a workgroup are released, and leave the map where a save has put them (R192, R325, R326). -/
def State.releaseCaptures (s : State) (g : Workgroup) : State :=
  let s := s.dropRefs g.vf g.region.toNat g.captures
  match s.launchOf g with
  | none => s
  | some l => g.captures.foldl (fun s c => if l.mapBits s g.wgnum c.1 == 0 then s else l.setMapBits s g.wgnum c.1 0) s

/-! The end of a workgroup, and kills -/

/-- A launch completes with a status (R300): signal, parent's batch, ownership of its objects. -/
def State.completeLaunch (s : State) (l : Launch) (st : Nat) : State :=
  let s := s.modLaunch l.vf l.lid (fun m => { m with endedAs := some st, reserved := [] })
  let s := s.objectsToRegion l.vf l.lid
  let s := if l.parent.isSome then s.childDone l.vf l.image.toNat l.lid st else s
  s.signal l.vf (l.rd s (l.dtab s + 40) 8) l.lid st

/-- What every end of a workgroup does (R230, R234, R295, R307): write-backs of every dirty line of the core (log 64), bindings,
captures, and the slot. -/
def State.freeWg (s : State) (c k : Nat) (g : Workgroup) : State :=
  let s := s.releaseDev c 0xFFFF
  let s := s.clearBindings g.vf g.region.toNat g.lid g.wgnum
  let s := s.releaseCaptures g
  s.setSlot c k none

/-- A workgroup gives up its bindings and its captures (R295, R307, R326). -/
def State.unbindWg (s : State) (c k : Nat) (g : Workgroup) : State :=
  ((s.clearBindings g.vf g.region.toNat g.lid g.wgnum).releaseCaptures g).modWg c k fun g => { g with captures := [] }

/-- A workgroup of a killed launch: it ends without its completion bit; one that a reset has halted keeps its place, but not its
bindings and captures (R295, R363). -/
def State.killWg (s : State) (c k : Nat) (g : Workgroup) : State :=
  if g.halted && (s.vf g.vf).flr then s.unbindWg c k g else s.freeWg c k g

/-- A saved workgroup of a killed launch: its captures are released and its bindings cleared (R295, R307, R326). -/
def State.killSaved (s : State) (l : Launch) (c : Nat) : State :=
  let cs := l.savedCaptures s c
  let s := s.dropRefs l.vf l.region.toNat cs
  let s := cs.foldl (fun s q => l.setMapBits s c q.1 0) s
  s.clearBindings l.vf l.region.toNat l.lid c

/-- Every record of a launch that has not ended becomes STATE 5, saved records included (R295); one that a reset has set to it before
gives up what it holds now (R363). -/
def State.killRecords (s : State) (l : Launch) : State :=
  (List.range (l.n s)).foldl (fun s c =>
    let a := l.recOff s c
    let st := l.rd s a 1
    if st == 4 then s
    else
      let s := if st == 1 || st == 2 || st == 5 || st == 6 then s.killSaved l c else s
      l.wr s a 1 5) s

/-- The launches that wait on one of the given launches (R299). -/
def State.consumers (s : State) (ks : List Launch) : List Launch :=
  s.launches.filter fun l => l.endedAs == none && l.rd s (l.dtab s + 32) 1 % 16 != 0
    && ks.any (fun k => k.vf == l.vf && k.image.toNat == l.rd s (l.dtab s + 24) 8)

/-- The launches to kill with the given ones: consumers, and consumers of those. -/
def State.killClosure (s : State) : Nat → List Launch → List Launch
  | 0, ks => ks
  | n + 1, ks => State.killClosure s n (ks ++ (s.consumers ks).filter (fun l => !ks.contains l))

/-- Kills one launch (R295); `sig` says whether its signal is written (R363). -/
def State.killOne (s : State) (sig : Bool) (l : Launch) : State :=
  let s := s.residents.foldl (fun s p => if p.2.2.vf == l.vf && p.2.2.lid == l.lid then s.killWg p.1 p.2.1 p.2.2 else s) s
  let s := s.killRecords l
  let s := { s with cores := s.cores.map fun co =>
    { co with resume := co.resume.filter (fun r => !(r.vf == l.vf && r.lid == l.lid))
              affq := co.affq.filter (fun a => !(a.vf == l.vf && a.image == l.image)) } }
  let s := l.wr s (l.dtab s + 48) 8 3
  let recs := (List.range (l.n s)).map fun c => l.image.toNat + l.recOff s c
  let s := { s with awaited := s.awaited.filter fun a => !(a.vf == l.vf && recs.contains a.rec_) }
  if sig then s.completeLaunch l 7
  else
    let s := s.modLaunch l.vf l.lid (fun m => { m with endedAs := some 7, reserved := [] })
    let s := s.objectsToRegion l.vf l.lid
    if l.parent.isSome then s.childDone l.vf l.image.toNat l.lid 7 else s

/-- Kills launches and every consumer of them (R295, R299). -/
def State.killLaunches (s : State) (sig : Bool) (ks : List Launch) : State :=
  (s.killClosure s.launches.length (ks.filter (·.endedAs == none))).foldl (fun s l => s.killOne sig l) s

/-- The live launches of a region and of its subtree (R295). -/
def State.subtree (s : State) (f region : Nat) : List Launch :=
  s.launches.filter fun m => m.vf == f && m.endedAs == none &&
    (match s.chain m.vf m.region.toNat with | some ch => ch.contains region | none => false)

/-- Claimed child entries of a region that wait for their admission are discarded (R304). -/
def State.discardClaimed (s : State) (f region : Nat) : State :=
  let mine (a : Admit) : Bool := a.vf == f && a.queue == 16 && a.region == region
  let s' := (s.admits.filter mine).foldl (fun s a => (s.childDone f a.entry.image a.lid 7).objectsToRegion f a.lid) s
  { s' with admits := s'.admits.filter fun a => !mine a }

/-- The child entries that wait in a region's queue are discarded: each parent's batch reports STATUS 7 (R304). -/
def State.discardChildren (s : State) (f region : Nat) : State :=
  let s := s.discardClaimed f region
  let n := s.dev f (region + 32) 2
  let h := s.dev f (region + 34) 2
  let t := s.dev f (region + 36) 2
  if n == 0 || h == t then s
  else
    let q := s.dev f (region + 24) 8
    let s := (List.range ((t + 65536 - h) % 65536)).foldl (fun s i => s.childDone f (s.dev f (q + 64 * ((h + i) % 65536 % n)) 8) 0 7) s
    s.devWrite f (region + 34) 2 t

/-- A fault in a launch kills it alone, or, when its region's DOMAIN is set, the region with its whole subtree (R295, R304). -/
def State.killDomain (s : State) (sig : Bool) (l : Launch) : State :=
  if s.eff l.vf l.region.toNat 11 == 1 then
    let ks := s.subtree l.vf l.region.toNat
    let s := ((l.region.toNat :: ks.map (·.region.toNat)).eraseDups).foldl (fun s r => s.discardChildren l.vf r) s
    s.killLaunches sig ks
  else s.killLaunches sig [l]

/-- The end of workgroup `g` (R300); where its launch's dispatch table is read poisoned, the launch is killed instead (R360). -/
def State.endWg (s : State) (c k : Nat) (g : Workgroup) : State :=
  let s := s.freeWg c k g
  match s.launchOf g with
  | none => s
  | some l =>
    let dt := l.dtab s
    let a := dt + 64 + g.wgnum / 8
    if l.poisoned s (dt + 16) || l.poisoned s a then s.killLaunches true [l] else
    let s := l.wr s a 1 (Nat.lor (l.rd s a 1) (2 ^ (g.wgnum % 8)))
    let ended := l.rd s (dt + 16) 8 + 1
    let s := l.wr s (dt + 16) 8 ended
    let s := l.wr s (l.recOff s g.wgnum) 1 4
    if ended == l.n s then (l.wr s (dt + 48) 8 2).completeLaunch l 0 else s

/-! Starting a workgroup (R12, R22 to R25, R289, R298, R377) -/

/-- A v register with every lane zero. -/
def zeroLanes : Lanes := List.replicate 32 0

/-- A warp at workgroup start (R20, R31). -/
def freshWarp (h : KHeader) (kimg : Nat) (granule wslot clock : Nat) : Warp :=
  let r := h.roles.getD 0 default
  let pc : W64 := BitVec.ofNat 64 (kimg + h.wcode + r.entry)
  { v := List.replicate r.count zeroLanes, x := List.replicate 8 (List.replicate 32 0), p := List.replicate 7 0,
    win := List.replicate 8 (0, r.count), pcs := List.replicate 32 pc, exited := 0, leaders := List.replicate 8 0, turn := 0,
    role := 0, count := r.count, allot := granules r.count, granule := granule, fstat := 0, fullsv := false, fbv := false,
    unifx := r.unifx, stchk := r.stchk, pcls := r.pcls, promo := false,
    rep := { active := false, left := 0, count := 0, stride := 0, mask := 0, leader := 0 }, tlatch := 0, fbnum := 0, fbpc := 0,
    meet := 0, hitch := 0, block := .none, waits := [], head := 0, rfirsts := 0, rfmask := 0, passed := false, wslot := wslot,
    readyAt := clock, lastAt := clock, readySince := clock, endsAt := clock, sb := [] }

/-- A tile at workgroup start (R24): cells 0, A36, m = −∞, l = +0. -/
def freshTile : Tile :=
  { cells := List.replicate 32 (List.replicate 96 0), rows := List.replicate 32 (0xFF80_0000, 0), f32 := false, sat := false }

/-- A barrier at workgroup start (R23). -/
def freshBarrier (h : KHeader) (k : Nat) : Barrier :=
  { declared := h.barcnt.getD k 0 != 0, expected := h.barcnt.getD k 0, arrivals := 0, phase := false,
    members := h.members.getD k 0, arrived := 0, leaving := 0 }

/-- A driver at workgroup start (R22). -/
def freshDriver (h : KHeader) (kimg : Nat) (priv : Bool) (clock : Nat) : Driver :=
  { pc := BitVec.ofNat 64 (kimg + h.drvoff), d := List.replicate 32 0, priv, ended := false, block := .none, readyAt := clock }

/-- Physical warp slots of a core that hold no warp, in ascending order. -/
def Core.freeWarpSlots (co : Core) : List Nat :=
  let used := co.slots.flatMap fun g => match g with | some g => g.warps.map (·.wslot) | none => []
  (List.range Config.nWarpSlots).filter (fun i => !used.contains i)

/-- Bytes of a window as placed (R238). -/
def winBytes (scratch : Nat) : Nat := (scratch + 1023) / 1024 * 1024

/-- Windows and object areas of a core: base and bytes. -/
def Core.taken (co : Core) : List (Nat × Nat) :=
  (co.slots.filterMap fun g => g.map fun g => (g.winBase, winBytes g.hdr.scratch)) ++ co.areas.map (fun a => (a.base, a.size))

/-- The lowest base where a window fits (R238); windows are placed only below every object (R240). -/
def Core.placeWindow (co : Core) (n : Nat) : Option Nat :=
  let top := co.areas.foldl (fun t a => min t a.base) Config.scratchBytes
  ((List.range 512).map (· * 1024)).find? fun b =>
    b + n ≤ top && co.taken.all fun t => n == 0 || t.2 == 0 || b + n ≤ t.1 || t.1 + t.2 ≤ b

/-- The core has slots, registers, tiles, a window place and, with RELAY, no other relay workgroup (R288, R298). -/
def Core.fits (co : Core) (h : KHeader) : Bool :=
  let gs := co.slots.filterMap id
  h.warps ≤ co.freeWarpSlots.length
    && (gs.map (·.pool)).sum + h.pool ≤ Config.nGranules
    && (gs.map (·.tiles.length)).sum + h.tiles ≤ Config.nTiles
    && (co.placeWindow (winBytes h.scratch)).isSome
    && (!h.relay || gs.all (fun g => !g.hdr.relay))

/-- The core's lowest free workgroup slot. -/
def Core.freeSlot (co : Core) : Option Nat := (List.range Config.nSlots).find? fun k => (co.slots.getD k none).isNone

/-- Warps and window KiB of the resident workgroups under region G of a function (R377). -/
def State.usage (s : State) (f region : Nat) : Nat × Nat :=
  s.residents.foldl (fun u p =>
    let g := p.2.2
    if g.vf == f && (match s.chain f g.region.toNat with | some ch => ch.contains region | none => false) then
      (u.1 + g.hdr.warps, u.2 + winBytes g.hdr.scratch / 1024) else u) (0, 0)

/-- The resident budgets allow one more workgroup (R377). -/
def State.budgetOk (s : State) (f region : Nat) (h : KHeader) : Bool :=
  match s.chain f region with
  | none => false
  | some ch => ch.all fun a =>
      let u := s.usage f a
      u.1 + h.warps ≤ s.eff f a 6 && u.2 + winBytes h.scratch / 1024 ≤ s.eff f a 7

/-- Functions whose top-level STRINGS hold the string. -/
def State.functionsOf (s : State) (n : Nat) : List Nat :=
  (List.range Config.nVfs).filter fun f => (s.vf f).topRcb != 0 && s.topNat f 64 8 / 2 ^ n % 2 == 1

/-- A string of more than one function is shared (R342). -/
def State.shared (s : State) (n : Nat) : Bool := 1 < (s.functionsOf n).length

/-- The function that a string serves is f: its one owner, or that of the present slice on a shared string (R298, R342). -/
def State.serves (s : State) (n f : Nat) : Bool := if s.shared n then (s.string n).slice == some f else (s.functionsOf n).contains f

/-- The cores of a region: those of its effective STRINGS that are not lost. -/
def State.regionCores (s : State) (f region : Nat) : List Nat :=
  let m := s.eff f region 0
  (List.range s.cores.length).filter fun c => m / 2 ^ stringOf c % 2 == 1 && !(s.core c).lost

/-- The string of core c has left the region of an object that is still berthed there (R313). -/
def State.toSpill (s : State) (c : Nat) (o : ObjArea) : Bool := s.eff o.vf o.region.toNat 0 / 2 ^ stringOf c % 2 == 0

/-- Core c may take workgroups of the launch now (R298, R339, R342; log 46): before that, what other regions have left there is spilled
(R313). -/
def State.mayPlace (s : State) (c : Nat) (l : Launch) : Bool :=
  (s.regionCores l.vf l.region.toNat).contains c && s.serves (stringOf c) l.vf && !(s.core c).areas.any (s.toSpill c)

/-! Dependences (R299) -/

/-- The producers of workgroup c under the launch's mapping, of m producer workgroups. -/
def Launch.producers (l : Launch) (s : State) (c m : Nat) : List Nat :=
  let k := l.rd s (l.dtab s + 34) 2
  match l.rd s (l.dtab s + 32) 1 % 16 with
  | 1 => if c < m then [c] else []
  | 2 => if c / k < m then [c / k] else []
  | 3 => (List.range m).filter fun p => c - k ≤ p && p ≤ c + k
  | 4 => List.range m
  | _ => []

/-- The producer launch's image, read as the launch's function reads it. -/
def Launch.producer (l : Launch) (s : State) : Launch := { l with image := BitVec.ofNat 64 (l.rd s (l.dtab s + 24) 8) }

/-- Workgroup c is claimable (R299). -/
def State.claimable (s : State) (l : Launch) (c : Nat) : Bool :=
  l.rd s (l.dtab s + 32) 1 % 16 == 0 ||
    (let p := l.producer s
     let dt := p.dtab s
     let st := p.rd s (dt + 48) 1 % 4
     (st == 1 || st == 2) && (l.producers s c (p.rd s (dt + 8) 8)).all fun i => p.rd s (dt + 64 + i / 8) 1 / 2 ^ (i % 8) % 2 == 1)

/-- The launch's producer has been killed (R299). -/
def State.producerKilled (s : State) (l : Launch) : Bool :=
  l.rd s (l.dtab s + 32) 1 % 16 != 0 && (let p := l.producer s; p.rd s (p.dtab s + 48) 1 % 4 == 3)

/-- Cycles of one slice (R342). -/
def sliceCycles : Nat := 2000 * usCycles

/-- The TIMER deadline that placement arms: what remains of the slice, on a shared string (R338). -/
def State.newDeadline (s : State) (c : Nat) : Option Nat :=
  if s.shared (stringOf c) then some (sliceCycles - s.clock % sliceCycles) else none

/-- The workgroup as it starts fresh (R12, R22 to R25); TRAPREC reads 0 then, after a restart too (R27; log 48). -/
def State.freshWg (s : State) (c : Nat) (l : Launch) (h : KHeader) (kimg wgnum winBase : Nat) : Workgroup :=
  let nx := l.rd s 16 4
  let ny := l.rd s 20 4
  let ws := (s.core c).freeWarpSlots
  let g0 := granules (h.roles.getD 0 default).count
  { vf := l.vf, lid := l.lid, image := l.image, kimg := BitVec.ofNat 64 kimg, region := l.region, wgnum := wgnum,
    coords := (wgnum % nx, wgnum / nx % ny, wgnum / (nx * ny)), extent := (nx, ny, l.rd s 24 4),
    arg := BitVec.ofNat 64 (l.rd s 8 8), hdr := h,
    warps := (List.range h.warps).map fun w => freshWarp h kimg (w * g0) (ws.getD w 0) s.clock,
    drv := freshDriver h kimg (s.eff l.vf l.region.toNat 12 == 1) s.clock, pool := h.pool, free := 0, winBase,
    tiles := List.replicate h.tiles freshTile, slots := List.replicate 8 .empty, open_ := [],
    batches := List.replicate 16 { state := .idle, cmds := [] }, evq := [], bars := (List.range 16).map (freshBarrier h),
    dq := [], dqTail := 0, relay := none, lastDone := 0, trapping := [], parkedSent := false, parkAsked := false, hazards := [], captures := [],
    startAt := s.clock, notCounted := 0,
    deadline := s.newDeadline c, trapHdr := 0, halted := false, inSave := false }

/-- A range of scratchpad receives new contents: nothing of its errors, nor of what was written over operands there, is left (R251). -/
def Core.vacate (co : Core) (base n : Nat) : Core :=
  { co with badWords := co.badWords.filter (fun w => 8 * w + 8 ≤ base || base + n ≤ 8 * w)
            smear := co.smear.filter fun m => m.1 < base || base + n ≤ m.1 }

/-- A core as a workgroup finds it: nothing left in its window, and an A latch of an earlier life of it forgotten. -/
def Core.makeWay (co : Core) (g : Workgroup) : Core :=
  { co.vacate g.winBase (winBytes g.hdr.scratch) with
    latch := co.latch.filter fun x => !(x.vf == g.vf && x.lid == g.lid && x.wgnum == g.wgnum) }

/-- Places a workgroup: its window zeroed, the slot filled, an acquire at device scope (R234, R238). -/
def State.placeFresh (s : State) (c k : Nat) (g : Workgroup) : State :=
  let n := winBytes g.hdr.scratch
  let s := s.modCore c fun co => { co.makeWay g with scratch := co.scratch.clear g.winBase n }
  let s := s.setSlot c k (some g)
  let s := s.modVf g.vf (fun v => { v with drained := false })
  s.acquireDev c

end Sys2Proof.Machine
end

