-- ==== Sys2Proof/Machine/Gangs.lean ====
section
/-!
DEFINITION. Lanes, slices and gangs of a warp (R20, R21, R205 to R210, R136), barriers (R23, R138), the decision queue (R23,
R131, R156) and the register pool (R16, R17).
-/
namespace Sys2Proof.Machine

/-! Lanes and gangs -/

/-- Lanes that have not exited. -/
def Warp.live (w : Warp) : W32 := ~~~w.exited

def Warp.gone (w : Warp) : Bool := w.exited == BitVec.allOnes 32

/-- The lanes of a slice. -/
def sliceLanes (n : Nat) : List Nat := [4 * n, 4 * n + 1, 4 * n + 2, 4 * n + 3]

/-- The slice has a lane of the mask. -/
def sliceMeets (m : W32) (n : Nat) : Bool := (sliceLanes n).any (laneBit m)

/-- Slices with a lane that has not exited. -/
def Warp.liveSlices (w : Warp) : List Nat := (List.range 8).filter (sliceMeets w.live)

def Warp.pcOf (w : Warp) (L : Nat) : W64 := w.pcs.getD L 0

/-- The least of some resume PCs; none of no lane. -/
def leastPc : List W64 → Option W64
  | [] => none
  | p :: r => match leastPc r with
    | none => some p
    | some q => some (if p.toNat ≤ q.toNat then p else q)

/-- The issue PC of a slice (R207). -/
def Warp.issuePc (w : Warp) (n : Nat) : W64 :=
  (leastPc (((sliceLanes n).filter (laneBit w.live)).map w.pcOf)).getD 0

/-- Live slices of the gang with leader `l`. -/
def Warp.gang (w : Warp) (l : Nat) : List Nat := w.liveSlices.filter (fun n => w.leaders.getD n 0 == l)

/-- Candidate lanes of some slices at an issue PC: the first three conditions of R21. -/
def Warp.candidates (w : Warp) (slices : List Nat) (pc : W64) : W32 :=
  maskOf fun L => laneBit w.live L && slices.contains (L / 4) && w.pcOf L == pc

/-- A gang in turn: leader, slices, issue PC, candidate lanes. -/
structure Gang where
  leader : Nat
  slices : List Nat
  pc     : W64
  cand   : W32
  deriving DecidableEq, Repr, Inhabited

def Warp.gangOf (w : Warp) (l : Nat) : Gang :=
  let sl := w.gang l
  let pc := w.issuePc (sl.headD 0)
  { leader := l, slices := sl, pc, cand := w.candidates sl pc }

/-- Every lane that has not exited waits at one meeting word (R136). -/
def Warp.met (w : Warp) : Bool :=
  w.live != 0 && w.live &&& ~~~w.meet == 0 &&
    (match (List.range 32).filter (laneBit w.live) with
     | [] => false
     | L :: r => r.all (fun M => w.pcOf M == w.pcOf L))

/-- The wait keeps its gang from issuing: one for another gang's registers does while that gang's word waits (R83). -/
def Warp.holds (w : Warp) (q : GWait) : Bool :=
  match q.kind with
  | .lock l => w.waits.any fun r => r.leader == l && (match r.kind with | .lock _ => false | _ => true)
  | _ => q.held

/-- A gang can issue: some candidate lane does not wait at its word, and the gang is not held (R211). -/
def Warp.canIssue (w : Warp) (g : Gang) : Bool :=
  g.slices != [] && g.cand &&& ~~~w.meet != 0 && !w.waits.any (fun q => q.leader == g.leader && w.holds q)

/-- All live slices as one gang (R136). -/
def Warp.whole (w : Warp) : Gang :=
  let sl := w.liveSlices
  let l := sl.headD 0
  let pc := w.issuePc l
  { leader := l, slices := sl, pc, cand := w.candidates sl pc }

/-- The gang that issues next (R210); with a meeting complete, the whole warp; in a `rep` sequence, the gang that issued `rep`
(R117). -/
def Warp.pick (w : Warp) : Option Gang :=
  if w.met then some w.whole
  else if w.rep.active then
    let g := w.gangOf w.rep.leader
    if w.canIssue g then some g else none
  else
    (((List.range 8).map fun i => w.gangOf ((w.turn + i) % 8)).filter w.canIssue).head?

/-- The word at which a warp resumes: of the gang that issues next, else of the lowest waiting lane (R331). -/
def Warp.nextPc (w : Warp) : W64 :=
  match w.pick with
  | some g => g.pc
  | none => (leastPc (((List.range 32).filter (laneBit w.live)).map w.pcOf)).getD 0

/-- Leaders after slices with equal issue PCs within a gang form one gang each (R208); a dead slice leads itself. -/
def Warp.regroup (w : Warp) (slices : List Nat) : Warp :=
  { w with leaders := (List.range 8).map fun n =>
      if !sliceMeets w.live n then n
      else if slices.contains n then
        ((slices.filter (fun m => sliceMeets w.live m && w.issuePc m == w.issuePc n)).head?).getD n
      else w.leaders.getD n 0 }

/-- Joins slices into one gang whose leader is the lowest (R136, R209); the gangs they leave keep their other slices. -/
def Warp.join (w : Warp) (slices : List Nat) : Warp :=
  let l := slices.headD 0
  let w' := { w with leaders := (List.range 8).map fun n =>
      if slices.contains n then l
      else if !sliceMeets w.live n then n
      else ((List.range 8).find? fun m => !slices.contains m && sliceMeets w.live m
              && w.leaders.getD m 0 == w.leaders.getD n 0).getD n }
  w'.regroup slices

/-- Moves the lanes of a mask to a PC. -/
def Warp.setPcs (w : Warp) (m : W32) (pc : W64) : Warp :=
  { w with pcs := (List.range 32).map fun L => if laneBit m L then pc else w.pcOf L }

/-- A completed meeting: one gang, its turn, nobody waiting; the lanes stay on the word (R136, R210). -/
def Warp.meeting (w : Warp) : Warp :=
  let w := w.join w.liveSlices
  { w with meet := 0, hitch := 0, turn := w.liveSlices.headD 0 }

/-- Every lane moves past the meeting word. -/
def Warp.passWord (w : Warp) : Warp :=
  let g := w.whole
  w.setPcs g.cand (g.pc + 12)

/-- Releases the lanes that wait at the lowest-addressed `hitch` as one gang (R136). -/
def Warp.releaseHitch (w : Warp) : Warp :=
  let hs := (List.range 32).filter (laneBit w.hitch)
  let pc := (leastPc (hs.map w.pcOf)).getD 0
  let m := maskOf fun L => laneBit w.hitch L && w.pcOf L == pc
  let w := w.setPcs m (pc + 12)
  let w := { w with meet := w.meet &&& ~~~m, hitch := w.hitch &&& ~~~m }
  w.join ((List.range 8).filter (sliceMeets m))

/-- Fixed-latency results in flight without those that a later write has overwritten (R83). -/
def Warp.settle (w : Warp) (ks : List (SbKey × W32)) : Warp :=
  { w with sb := w.sb.filterMap fun e =>
      let m := ks.foldl (fun m k => if k.1 == e.1 then m &&& ~~~k.2 else m) e.2.1
      if m == 0 then none else some (e.1, m, e.2.2) }

/-- A register in every lane. -/
def allLanes (k : SbKey) : SbKey × W32 := (k, BitVec.allOnes 32)

/-! The register pool -/

/-- Granules that the grant of a warp blocked in `role k` needs beyond the free ones: new − old − free, if positive (R16, R17). -/
def Workgroup.roleLack (g : Workgroup) (w : Warp) (k : Nat) : Int :=
  (granules (g.hdr.roles.getD k default).count : Int) - w.allot - g.free

/-- Every non-exited warp is blocked in `role` and none can be granted: the lowest of them and what it lacks (R17). -/
def Workgroup.roleDeadlock (g : Workgroup) : Option (Nat × Int) :=
  let ws := ((List.range g.warps.length).filterMap fun i => (g.warps[i]?).map fun w => (i, w)).filter (fun p => !p.2.gone)
  let need := ws.map fun p => match p.2.block with | .role k => some (p.1, g.roleLack p.2 k) | _ => none
  if ws != [] && need.all (fun n => match n with | some (_, d) => decide (0 < d) | none => false) then need.headD none else none

/-- A contiguous run of granules of the pool for a warp that changes role; the areas of the other warps move together when no
gap is long enough (R289). -/
def Workgroup.placeGranules (g : Workgroup) (w n : Nat) : Workgroup :=
  let others := (List.range g.warps.length).filterMap fun i =>
    if i == w then none else (g.warps[i]?).bind fun o => if o.allot == 0 then none else some (o.granule, o.allot)
  let ok := (List.range (g.pool + 1)).find? fun b =>
    b + n ≤ g.pool && others.all fun o => b + n ≤ o.1 || o.1 + o.2 ≤ b
  match ok with
  | some b => { g with warps := g.warps.modify w fun x => { x with granule := b, allot := n } }
  | none =>
    let ws := g.warps.modify w fun x => { x with allot := n }
    let r := ws.foldl (fun (acc : Nat × List Warp) x => (acc.1 + x.allot, acc.2 ++ [{ x with granule := acc.1 }])) (0, [])
    { g with warps := r.2 }

/-- The grant of role k (R16): registers kept or zeroed, granules, class, control bits, windows, entry. -/
def Workgroup.grantRole (g : Workgroup) (w k clock : Nat) : Workgroup :=
  match g.warps[w]? with
  | none => g
  | some x =>
    let r := g.hdr.roles.getD k default
    let n := granules r.count
    let free := (g.free + x.allot) - n
    let v := (List.range r.count).map fun i => if i < min x.count r.count then x.v.getD i zeroLanes else zeroLanes
    let pc : W64 := g.kimg + BitVec.ofNat 64 (g.hdr.wcode + r.entry)
    let zeroed := (List.range (r.count - min x.count r.count)).map fun i => allLanes (.v (min x.count r.count + i))
    let x' := { (x.meeting.settle zeroed).settle ((List.range 8).map fun i => allLanes (.win i)) with
      v := v, count := r.count, role := k, pcls := r.pcls, stchk := r.stchk, unifx := r.unifx,
      win := List.replicate 8 (0, r.count), block := .none, readySince := clock,
      readyAt := max x.readyAt (clock + 1) }
    let g := { g with warps := g.warps.set w (x'.setPcs x'.live pc), free := free }
    if n == x.allot then g else g.placeGranules w n

/-! Barriers (R23, R138) -/

/-- What a warp does when the phase of barrier b flips: a waiting one goes on, one that arrives again is counted in the new phase. -/
def Warp.onFlip (b clock : Nat) (w : Warp) : Warp :=
  if w.block == .bar b || w.block == .barAgain b true then
    { w.meeting.passWord with block := .none, readySince := clock }
  else if w.block == .barAgain b false then { w with block := .bar b }
  else w

def Driver.onFlip (b clock : Nat) (d : Driver) : Driver :=
  if d.block == .bar b || d.block == .barAgain b true then
    { d with block := .none, pc := d.pc + 12, readyAt := max d.readyAt (clock + 1) }
  else if d.block == .barAgain b false then { d with block := .bar b }
  else d

/-- Agents whose arrival a flip carries into the new phase. -/
def Workgroup.carried (g : Workgroup) (b : Nat) : BitVec 17 :=
  BitVec.ofNat 17 (((List.range g.warps.length).foldl (fun a i =>
      match g.warps[i]? with
      | some w => if w.block == .barAgain b true || w.block == .barAgain b false then a + 2 ^ i else a
      | none => a) 0)
    + (if g.drv.block == .barAgain b true || g.drv.block == .barAgain b false then 65536 else 0))

/-- Flips barrier b while its phase is complete; an arrival or a removal has just been counted. The removals that a flip applies
belong to it: where they lower the count to 0 with nobody arrived, the new phase does not flip again (log 47). -/
def Workgroup.flipWhile (clock b : Nat) : Nat → Workgroup → Workgroup
  | 0, g => g
  | n + 1, g =>
    match g.bars[b]? with
    | none => g
    | some x =>
      if x.arrivals < x.expected then g
      else
        let ca := g.carried b
        let x' := { x with phase := !x.phase, arrivals := popNat 17 ca.toNat, arrived := ca, expected := x.expected - x.leaving,
                           leaving := 0 }
        let g := { g with bars := g.bars.set b x', warps := g.warps.map (Warp.onFlip b clock), drv := g.drv.onFlip b clock }
        if ca == 0 then g else Workgroup.flipWhile clock b n g

/-- Agent `a` (0–15 a warp, 16 the driver) arrives at barrier b. -/
def Workgroup.arrive (g : Workgroup) (clock b a : Nat) : Workgroup :=
  let g := { g with bars := g.bars.modify b fun x =>
    { x with arrivals := x.arrivals + 1, arrived := x.arrived ||| BitVec.ofNat 17 (2 ^ a) } }
  g.flipWhile clock b 18

/-- Agent `a` has already arrived at barrier b in this phase. -/
def Workgroup.hasArrived (g : Workgroup) (b a : Nat) : Bool :=
  match g.bars[b]? with
  | some x => x.arrived.getLsbD a
  | none => false

/-- Agent `a` leaves one barrier (R23). -/
def Workgroup.leaveOne (clock a : Nat) (g : Workgroup) (b : Nat) : Workgroup :=
  match g.bars[b]? with
  | none => g
  | some x =>
    if !x.declared || !x.members.getLsbD a then g
    else if x.arrived.getLsbD a then { g with bars := g.bars.set b { x with leaving := x.leaving + 1 } }
    else if x.expected == 0 then g
    else { g with bars := g.bars.set b { x with expected := x.expected - 1 } }.flipWhile clock b 18

/-- Agent `a` leaves every barrier of which it is a member. -/
def Workgroup.leaveAll (g : Workgroup) (clock a : Nat) : Workgroup :=
  (List.range 16).foldl (fun g b => Workgroup.leaveOne clock a g b) g

/-! The decision queue -/

/-- Position of the oldest unretired entry. -/
def Workgroup.dqFirst (g : Workgroup) : Nat := g.dqTail - g.dq.length

/-- Retires every entry that all non-exited warps have passed, and lets a waiting push go on (R23, R156). -/
def Workgroup.retire (g : Workgroup) : Workgroup :=
  let heads := (g.warps.filter (fun w => !w.gone)).map (·.head)
  let least := heads.foldl min g.dqTail
  let dq := g.dq.drop (least - g.dqFirst)
  { g with dq := dq, drv := if g.drv.block == .push && dq.length < 16 then { g.drv with block := .none } else g.drv }

/-! Warps that exit, and the end of a workgroup -/

/-- The driver has ended and every warp has exited (R155). -/
def Workgroup.finished (g : Workgroup) : Bool := g.drv.ended && g.warps.all Warp.gone

/-- A warp has exited in all lanes: its allotment, barriers and queue position (R17, R23, R135). -/
def Workgroup.warpGone (g : Workgroup) (clock w : Nat) : Workgroup :=
  let al := (g.warps.getD w default).allot
  let g := { g with free := g.free + al, warps := g.warps.modify w fun x =>
    { x with allot := 0, block := .none, meet := 0, hitch := 0, leaders := List.range 8 } }
  (g.leaveAll clock w).retire

end Sys2Proof.Machine
end

