-- ==== Sys2Proof/Machine/Ops.lean ====
section
/-!
DEFINITION. The shared operations of the machine: outcomes, clocks and TIME, the rail log, taking a trap (R295, R329 to R331, R375),
scratchpad bytes with their errors (R251, R252), and the loss of a core (R359).
-/
namespace Sys2Proof.Machine

/-- The outcome of one instruction or event. -/
abbrev Out := Host.Outcome State Fault Refusal

/-! Time -/

/-- 1 GHz counts of a number of 1.75 GHz cycles (R2, R337). -/
def nsOf (cycles : Nat) : Nat := cycles * 4 / 7

/-- TIME of a function (R337). -/
def State.timeOf (s : State) (f : Nat) : Nat :=
  let v := s.vf f
  (v.time.toNat + (if v.pause then 0 else nsOf (s.clock - v.timeAt))) % 2 ^ 64

/-- TIME of the physical function. -/
def State.pfTime (s : State) : Nat := nsOf s.clock % 2 ^ 64

/-- WTIME of a workgroup (R338). -/
def State.wtime (s : State) (g : Workgroup) : Nat := s.clock - g.startAt - g.notCounted

/-! The rail controller's event log (R353) -/

def State.railLog (s : State) (kind rail core addr : Nat) : State :=
  let b := s.img.logbase
  let k := s.mem.nat b 8
  let s := s.writeL2Nat (b + 64 + 16 * (k % 4096)) 8 s.pfTime
  let s := s.writeL2Nat (b + 64 + 16 * (k % 4096) + 8) 8 (kind * 2 ^ 60 + rail * 2 ^ 58 + core * 2 ^ 48 + addr % 2 ^ 48)
  s.writeL2Nat b 8 (k + 1)

/-- The operating point k of a rail (R346). -/
def State.opPoint (s : State) (rail k : Nat) : Nat := (s.img.opp.getD (16 * rail + k) 0).toNat

/-- VMV of the SRAM rail's selected point. -/
def State.sramVmv (s : State) : Nat := s.opPoint 2 (s.rails.getD 2 Rail.reset).point % 65536
def State.sramStep (s : State) : Nat := bitsOf (s.opPoint 2 (s.rails.getD 2 Rail.reset).point) 39 36

/-- An uncorrectable error in an SRAM structure (R352, R358): logged, and while undervolted a step up and a hold. A step that is
under way is reached before the next one begins. -/
def State.sramError (s : State) (core addr : Nat) : State :=
  let s := s.railLog 1 2 core addr
  let r : Rail := { s.rails.getD 2 Rail.reset with errAt := s.clock + 1 }
  let holdEnd := s.clock + 600 * 10 ^ 6 * usCycles
  if r.level < s.sramVmv then
    let base := if r.ramp.isSome then r.target else r.level
    let r := { r with hold := some holdEnd }
    if s.sramVmv ≤ base then { s with rails := s.rails.set 2 r }
    else
      let up := min s.sramVmv (base + s.sramStep)
      let s := s.railLog 2 2 255 0
      { s with rails := s.rails.set 2 { r with level := base, target := up, ramp := some (s.clock + 2 * usCycles) } }
  else { s with rails := s.rails.set 2 { r with hold := r.hold.map fun _ => holdEnd } }

/-! Traps -/

/-- Codes of the trap classes (R329). -/
def TrapClass.code : TrapClass → Nat
  | .ill => 0 | .priv => 1 | .reg => 2 | .addr => 3 | .align => 4 | .tran => 5 | .pin => 6 | .eccu => 7 | .unif => 8
  | .stallchk => 9 | .user => 10 | .timer => 11

/-- Word X of a REG trap (R375): kind, and a signed 32-bit number. -/
def regX (kind : Nat) (n : Int) : Nat := kind * 2 ^ 60 + (n % 2 ^ 32).toNat

/-- A trap queue header (R331). -/
def trapHeader (cls orig slot nag lid : Nat) : Nat :=
  cls * 2 ^ 60 + orig * 2 ^ 55 + slot * 2 ^ 52 + nag * 2 ^ 40 + lid % 2 ^ 32

/-- Drops the oldest blocks until `n` more words fit (R331). -/
def makeRoom (n : Nat) : List (List W64) → List (List W64)
  | [] => []
  | b :: r => if ((b :: r).map List.length).sum + n ≤ Config.trapQueueWords then b :: r else makeRoom n r

/-- Appends a block, header first, to a core's trap queue; LOST says that older blocks were dropped (R331). -/
def Core.appendBlock (co : Core) (hdr : Nat) (words : List Nat) : Core :=
  let q := makeRoom (1 + words.length) co.trapq
  let lost := if q.length < co.trapq.length then 2 ^ 51 else 0
  { co with trapq := q ++ [((hdr + lost) :: words).map (BitVec.ofNat 64)] }

/-- The header of the block that an append leaves, LOST included. -/
def Core.headerOf (co : Core) (hdr nwords : Nat) : Nat :=
  hdr + (if (makeRoom (1 + nwords) co.trapq).length < co.trapq.length then 2 ^ 51 else 0)

/-- The virtual address of the function's top-level RCB, as a region's chain, or that of a launch's region, has it. -/
def State.topVa (s : State) (f : Nat) (region : Option Nat) : Option Nat :=
  (region.toList ++ (s.launches.filter fun l => l.vf == f).map (·.region.toNat)).findSome? fun r =>
    ((s.chain f r).bind (·.getLast?)).filter fun a =>
      match s.devXlate f a .read with | .ok pa => pa == (s.vf f).topRcb | .error _ => false

/-- Writes a header to FAULTREC of a region and of the function's top level, and raises the vector (R295, R366). Both are device writes
of the function (R340); where nothing names the top level's virtual address, its physical one serves (log 6). -/
def State.faultRec (s : State) (f : Nat) (region : Option Nat) (hdr : Nat) : State :=
  let s := match region with
    | some r => if s.dev f r 8 == 0 then s else s.devWrite f (r + 208) 8 hdr
    | none => s
  let s := match s.topVa f region with
    | some a => s.devWrite f (a + 208) 8 hdr
    | none => if (s.vf f).topRcb == 0 then s else s.writeL2Nat ((s.vf f).topRcb + 208) 8 hdr
  s.raiseMsix f

/-- A header-only block that concerns no workgroup (R331). -/
def State.headerBlock (s : State) (c hdr : Nat) : State := s.modCore c (fun co => co.appendBlock hdr [])

/-- A block of the workgroup in slot k: it enters the trap queue, and its header stands as the workgroup's latest and in FAULTREC
(R331; log 48). -/
def State.wgBlock (s : State) (c k hdr : Nat) (words : List Nat) : State :=
  let h := (s.core c).headerOf hdr words.length
  let s := s.modCore c (fun co => co.appendBlock hdr words)
  match s.wg? c k with
  | none => s
  | some g => (s.modWg c k fun g => { g with trapHdr := BitVec.ofNat 64 h }).faultRec g.vf (some g.region.toNat) h

/-- Agents that a halt's block records: warps with a non-exited lane, and the driver unless it has ended (R331). -/
def Workgroup.recorded (g : Workgroup) : List Nat :=
  ((List.range g.warps.length).filter fun i => !(g.warps.getD i default).gone) ++ (if g.drv.ended then [] else [16])

/-- The word of an agent that traps, or at which it resumes (R331). -/
def Workgroup.agentPc (g : Workgroup) (a : Nat) : W64 := if a == 16 then g.drv.pc else (g.warps.getD a default).nextPc

/-- The three words of an agent record. -/
def Workgroup.agentRecord (g : Workgroup) (a skid : Nat) (own : Option TrapInfo) : List Nat :=
  let cls := match own with | some t => t.cls.code | none => 15
  let holder := match own with | some t => t.holder | none => 0
  let x := match own with | some t => t.x | none => 0
  let pc := ((own.bind (·.pc)).getD (g.agentPc a)).toNat
  [cls * 2 ^ 60 + skid * 2 ^ 58 + a * 2 ^ 53 + holder * 2 ^ 45, pc, x]

/-- An agent has trapped in this cycle. -/
def Workgroup.trapped (g : Workgroup) (a : Nat) : Option TrapInfo := (g.trapping.find? fun p => p.1 == a).map (·.2)

/-- Skid instructions of an agent that a halt stops: 1 where a word of it has issued its first beat and not yet ended, or has
trapped in this cycle (R220, R330). It issues none after that (log 12). -/
def Workgroup.skid (g : Workgroup) (clock : Nat) (drvNow : Bool) (a : Nat) : Nat :=
  if (g.trapped a).isSome then 1
  else if a == 16 then (if drvNow then 1 else 0)
  else if clock < (g.warps.getD a default).endsAt then 1 else 0

/-- The driver of slot k has issued a word in this cycle (R215). -/
def Core.driverNow (co : Core) (clock k : Nat) : Bool := co.feAt == clock + 1 && !co.feOstler && co.feNext == (k + 1) % 8

/-- The block of a halting trap that agent `a` originates; another agent that has trapped in the same cycle records its own class
(R330, R331). -/
def Workgroup.trapBlock (g : Workgroup) (clock : Nat) (drvNow : Bool) (a : Nat) (t : TrapInfo) : List Nat :=
  (a :: g.recorded.filter (· != a)).flatMap fun b =>
    if b == a then g.agentRecord a 0 (some t) else g.agentRecord b (g.skid clock drvNow b) (g.trapped b)

/-- TAKING A TRAP that halts the workgroup (R295, R329 to R331): every agent stops, the block goes to the trap queue and its header
to FAULTREC, then the launch or its fault domain is killed; an ECCU in an idempotent kernel restarts the workgroup fresh, once
(R252). -/
def State.takeTrap (s : State) (c k a : Nat) (t : TrapInfo) : State :=
  match s.wg? c k with
  | none => s
  | some g =>
    let words := g.trapBlock s.clock ((s.core c).driverNow s.clock k) a t
    let s := s.wgBlock c k (trapHeader t.cls.code a k (words.length / 3) g.lid) words
    match s.launchOf g with
    | none => s.freeWg c k g
    | some l =>
      if t.cls == .eccu && g.hdr.idemp && !l.restarts.contains g.wgnum then
        let s := s.modLaunch l.vf l.lid fun m => { m with restarts := g.wgnum :: m.restarts }
        let s := s.freeWg c k g
        s.placeFresh c k (s.freshWg c l g.hdr g.kimg.toNat g.wgnum g.winBase)
      else s.killDomain true l

/-- The trap that originates the halt among those of one cycle: ECCU if there is one, else that of the lowest-numbered agent (R254,
R330). -/
def originating : List (Nat × TrapInfo) → Option (Nat × TrapInfo)
  | [] => none
  | p :: r =>
    match originating r with
    | none => some p
    | some q =>
      let key (x : Nat × TrapInfo) : Nat := (if x.2.cls == .eccu then 0 else 32) + x.1
      some (if key p ≤ key q then p else q)

/-- The traps of the cycle in slot k are taken. -/
def State.settleTraps (s : State) (c k : Nat) : State :=
  match (s.wg? c k).bind fun g => originating g.trapping with
  | none => s
  | some p => s.takeTrap c k p.1 p.2

/-- The agent waits under RETRY, or a gang or a command of it does. -/
def Workgroup.underRetry (g : Workgroup) (a : Nat) : Bool :=
  if a == 16 then
    (match g.drv.block with | .pin _ _ _ => true | _ => false)
      || (g.open_ ++ g.batches.flatMap (·.cmds)).any fun q => match q.pend with | .retry _ => true | _ => false
  else
    let x := g.warps.getD a default
    (match x.block with | .pin _ _ _ => true | _ => false) || x.waits.any fun q => match q.kind with | .pin _ _ _ => true | _ => false

/-- An agent of the workgroup that has not trapped could still do so in this cycle: it could issue a word (R204, R211, R215), or its
RETRY could end (R229). -/
def State.mayTrap (s : State) (c : Nat) (g : Workgroup) : Bool :=
  let co := s.core c
  ((List.range 17).any fun a => (g.trapped a).isNone && g.underRetry a) ||
  ((List.range g.warps.length).any fun w =>
    let x := g.warps.getD w default
    (g.trapped w).isNone && !x.gone && x.readyAt ≤ s.clock && x.pick.isSome
      && (co.pipes.getD (2 * (x.wslot % 4)) 0 ≤ s.clock || co.pipes.getD (2 * (x.wslot % 4) + 1) 0 ≤ s.clock))
  || ((g.trapped 16).isNone && !g.drv.ended && g.drv.readyAt ≤ s.clock && co.feAt != s.clock + 1)

/-- The object that a slot is bound to, or will be when its batch completes, by its entry and its place in scratchpad. -/
def HSlot.object : HSlot → Option (Nat × Nat)
  | .bound e b _ _ => some (e, b)
  | .pending _ (some x) => some (x.1, x.2.1)
  | _ => none

/-- Two workgroups of a core are bound to one object. -/
def Workgroup.shares (g h : Workgroup) : Bool :=
  g.vf == h.vf && g.slots.any fun x => x.object.isSome && h.slots.any fun y => y.object == x.object

/-- A trap could still come to the workgroup in this cycle: an error has still to arise, another agent of it could trap, or one of
another workgroup, which is bound to an object of its own, could read a word of the object with an uncorrectable error (R252, R254). -/
def State.othersIssue (s : State) (c : Nat) (g : Workgroup) : Bool :=
  !s.upsets.isEmpty || s.mayTrap c g
    || (!(s.core c).badWords.isEmpty && (List.range Config.nSlots).any fun k =>
      match s.wg? c k with
      | some h => !(h.vf == g.vf && h.lid == g.lid && h.wgnum == g.wgnum) && g.shares h && s.mayTrap c h
      | none => false)

/-- The traps of a cycle with one more of agent `a`: its first stands, but an ECCU takes the place of another class (R254; log 12). -/
def addTrap (ts : List (Nat × TrapInfo)) (a : Nat) (t : TrapInfo) : List (Nat × TrapInfo) :=
  match ts.find? fun p => p.1 == a with
  | none => ts ++ [(a, t)]
  | some p => if t.cls == .eccu && p.2.cls != .eccu then ts.map fun q => if q.1 == a then (a, t) else q else ts

/-- The agent by which a workgroup reports an error that no word of it has met: the first of some that has not trapped in this cycle,
whose own trap then keeps its record (R254; log 12). -/
def Workgroup.reporter (g : Workgroup) (as : List Nat) : Nat :=
  (as.find? fun a => (g.trapped a).isNone).getD (as.headD 16)

/-- RAISING A TRAP that halts the workgroup: it is taken at once where no other agent of the workgroup can trap in the same cycle;
else it stands, with the PC of the trapping word, until the words of the cycle are done, and the traps of the cycle are settled
together (R254, R330, R331). -/
def State.raiseTrap (s : State) (c k a : Nat) (t : TrapInfo) : State :=
  match s.wg? c k with
  | none => s
  | some g =>
    let g' : Workgroup := { g with trapping := addTrap g.trapping a { t with pc := some (t.pc.getD (g.agentPc a)) } }
    if g'.trapping == g.trapping then s
    else
      let s := s.modWg c k fun _ => g'
      if s.othersIssue c g' then s else s.settleTraps c k

/-! Scratchpad bytes (R238, R251, R252) -/

def State.scr (s : State) (c a : Nat) : Byte := (s.core c).scratch.read a

/-- Writes scratchpad bytes in order; a write of a whole aligned word clears its error (R251). -/
def State.scrWrite (s : State) (c : Nat) (bs : List (Nat × Byte)) : State :=
  s.modCore c fun co =>
    { co with scratch := Memory.writeCells co.scratch bs
              badWords := co.badWords.filter fun w => !((List.range 8).all fun i => bs.any fun b => b.1 == 8 * w + i) }

/-- The first of some scratchpad addresses that lies in a word with an uncorrectable error. -/
def State.scrBad (s : State) (c : Nat) (as : List Nat) : Option Nat :=
  let co := s.core c
  if co.badWords == [] then none else as.find? (fun a => co.badWords.contains (a / 8))

/-- Bytes of scratchpad that a store rewrites only in part of their word: reading the word detects its error (R251). -/
def partialBytes (bs : List (Nat × Byte)) : List Nat :=
  (bs.map (·.1)).filter fun a => !((List.range 8).all fun i => bs.any fun b => b.1 == a / 8 * 8 + i)

/-- The object area of a core that holds a scratchpad address. -/
def Core.areaOf (co : Core) (a : Nat) : Option ObjArea := co.areas.find? (fun r => r.base ≤ a && a < r.base + r.size)

/-- The slot is bound to the area of an object, or will be when its batch completes. -/
def HSlot.on (o : ObjArea) (h : HSlot) : Bool :=
  match h with
  | .bound e b _ _ => e == o.entry && b == o.base
  | .pending _ (some x) => x.1 == o.entry && x.2.1 == o.base
  | _ => false

/-- A slot on an area that is gone binds nothing. -/
def HSlot.freed (o : ObjArea) (h : HSlot) : HSlot :=
  if !h.on o then h else match h with | .pending b _ => .pending b none | _ => .empty

/-- The workgroup slots of a core that are bound to an object of it, by the place of its area. -/
def Core.boundSlots (co : Core) (o : ObjArea) : List Nat :=
  (List.range Config.nSlots).filter fun k =>
    match co.slots.getD k none with
    | some g => g.vf == o.vf && g.slots.any (HSlot.on o)
    | none => false

/-- The slot whose window holds a scratchpad address. -/
def Core.windowOwner (co : Core) (a : Nat) : Option Nat :=
  (List.range Config.nSlots).find? fun k =>
    match co.slots.getD k none with
    | some g => g.winBase ≤ a && a < g.winBase + winBytes g.hdr.scratch
    | none => false

/-- An object's area is dropped by an error or a core loss: SHADOW when durable, LOST otherwise; its bindings are cleared (R307). -/
def State.loseObject (s : State) (c : Nat) (o : ObjArea) : State :=
  let s := s.modCore c (fun co => { co with areas := co.areas.filter (fun x => x != o) })
  match s.spill? o.vf o.region.toNat with
  | none => s
  | some (a, _) =>
    let dur := s.dirNat o.vf a o.entry 12 1 % 2 == 1
    let s := (List.range 8).foldl (fun s b => s.dirWrite o.vf a o.entry (64 + 8 * b) 8 0) s
    s.dirWrite o.vf a o.entry 16 1 (if dur then 3 else 4)

/-- An uncorrectable scratchpad error met at address `a` of core c by agent `ag` of slot `k`, or by none (R252): the owner of the
window, or every workgroup bound to the object, faults with ECCU. The trap is reported by the agent that read, with the address
`x` of its access, where it is the owner's, else by the lowest recorded agent. Where an error of this cycle has freed the object's area
already, the reader's workgroup, which was bound to it, faults. -/
def State.scratchError (s : State) (c k ag a x : Nat) (pc : Option W64 := none) : State :=
  let s := s.sramError c a
  let trapAt (s : State) (j : Nat) : State :=
    let who := if j == k then ag else match s.wg? c j with | some g => g.reporter g.recorded | none => 16
    s.raiseTrap c j who { cls := .eccu, x := x, pc := if j == k then pc else none }
  match (s.core c).areaOf a with
  | some o =>
    let ks := (s.core c).boundSlots o
    let s := s.loseObject c o
    ks.foldl trapAt s
  | none =>
    match (s.core c).windowOwner a with
    | some j => trapAt s j
    | none => trapAt s k

/-! Core loss (R359, R307, R311) -/

/-- The lowest-numbered core that is not lost. -/
def State.lowestLive (s : State) : Nat := ((List.range s.cores.length).find? fun c => !(s.core c).lost).getD 0

/-- The block of a workgroup of a lost core, with CLASS 7 in every agent record (R359). -/
def State.lossBlock (s : State) (c k : Nat) : State :=
  match s.wg? c k with
  | none => s
  | some g =>
    let words := g.recorded.flatMap fun b => g.agentRecord b 0 (some { cls := .eccu })
    (s.wgBlock c k (trapHeader 7 (g.recorded.headD 16) k g.recorded.length g.lid) words).modWg c k fun g => { g with inSave := false }

/-- A workgroup of a lost core is killed, if its kill has not come with that of another (R295, R359). -/
def State.killForLoss (s : State) (c k : Nat) : State :=
  match s.wg? c k with
  | none => s
  | some g =>
    match s.launchOf g with
    | none => s.freeWg c k g
    | some l => s.killDomain true l

/-- The moves of objects out of core c that commands in flight make: function, region, entry. -/
def Workgroup.moving (g : Workgroup) (c : Nat) : List (Nat × Nat × Nat) :=
  g.hazards.filterMap fun h =>
    match h.move with
    | some m =>
      if m.2.2.2 == c && !h.waiting && (h.batch == 16 || (g.batches.getD h.batch { state := .idle, cmds := [] }).state == .inflight) then
        some (m.1, m.2.1, m.2.2.1)
      else none
    | none => none

/-- The old berth is lost while an object moves to core c (R315): the area there is freed, and the object is as its old berth's loss
leaves it. -/
def State.loseMove (s : State) (c : Nat) (m : Nat × Nat × Nat) : State :=
  match (s.core c).areas.find? fun o => o.vf == m.1 && o.region.toNat == m.2.1 && o.entry == m.2.2 with
  | none => s
  | some o =>
    (s.loseObject c o).modCore c fun co => { co with
      slots := co.slots.map (Option.map fun g => if g.vf == o.vf then { g with slots := g.slots.map (HSlot.freed o) } else g) }

/-- The core is lost (R359). -/
def State.loseCore (s : State) (c : Nat) : State :=
  if (s.core c).lost then s else
  let s := s.modCore c (fun co => { co with lost := true, ostler := { co.ostler with started := false } })
  let s := (List.range Config.nSlots).foldl (fun s k => s.lossBlock c k) s
  let s := (List.range Config.nSlots).foldl (fun s k => s.killForLoss c k) s
  let s := (s.core c).areas.foldl (fun s o => s.loseObject c o) s
  let s := s.residents.foldl (fun s p => (p.2.2.moving c).foldl (fun s m => s.loseMove p.1 m) s) s
  let s := s.headerBlock s.lowestLive (trapHeader 7 16 0 0 0)
  { s with pfMsix := s.pfMsix + 1 }

/-- A trap of the ostler's own words: its block, then the core is lost (R359). -/
def State.ostlerTrap (s : State) (c : Nat) (cls : TrapClass) : State :=
  (s.headerBlock c (trapHeader cls.code 16 0 0 0)).loseCore c

/-! Errors (R251 to R253, R329, R352, R359) -/

/-- An error arises. A scratchpad word's is met where the word is read; a register's, a cell's and a row state's make the owning
workgroup fault with ECCU, X 0; an instruction cache's word is fetched again; a clean L1 line is dropped, and every other line is poisoned, one of memory that L2 holds when it is
read again (log 49). -/
def State.suffer (s : State) : Upset → State
  | .corrected rail core addr =>
    let s := s.railLog 0 rail (min core 255) addr
    if rail != 2 then s
    else
      let s : State := { s with sramCe := s.sramCe + 1 }
      if core < Config.nCores then s.modString (stringOf core) fun t => { t with ce := t.ce + 1 } else s
  | .scratch c w => s.modCore c fun co => { co with badWords := if co.badWords.contains w then co.badWords else w :: co.badWords }
  | .register c k a =>
    (s.sramError c 0).raiseTrap c k (match a with | .warp w => w | _ => 16) { cls := .eccu }
  | .tile c k => (s.sramError c 0).raiseTrap c k (match s.wg? c k with | some g => g.reporter g.recorded.reverse | none => 16) { cls := .eccu }
  | .ostler c => (s.sramError c 0).loseCore c
  | .icache c a => s.sramError c a
  | .l1 c ln =>
    (s.sramError c (64 * ln)).modCore c fun co =>
      { co with l1 := (co.l1.filter fun l => l.line != ln || l.isDirty).map fun l => if l.line == ln then { l with poison := true } else l }
  | .l2 ln => (s.sramError 255 (64 * ln)).setPoison ln true
  | .memory ln =>
    if s.l2.any fun l => l.line == ln then { s with memBad := if s.memBad.contains ln then s.memBad else ln :: s.memBad }
    else s.setPoison ln true
  | .flash bs => { s with flash := bs }

/-! Streams that issue words -/

/-- A privileged stream (R79, R22). -/
def State.privileged (s : State) : Bool :=
  match s.cur.agent with
  | .ostler => true
  | .driver => match s.wg? s.cur.core s.cur.slot with | some g => g.drv.priv | none => false
  | .warp _ => false

end Sys2Proof.Machine
namespace Sys2Proof

/-- Cycles that an agent's next word waits after a one-beat word: max(STL, 1) (R72). -/
def Ctl.gap (c : Ctl) : Nat := max c.stl.toNat 1

end Sys2Proof
end

