-- ==== Sys2Proof/Machine/Hazards.lean ====
section
/-!
DEFINITION. What is unspecified while an engine command's batch has not been waited for (R33, R160, R161), and what a store to a
page frame leaves (R190, R320). A command takes its effect when it runs; an access that breaks the rule then reads free values, or
leaves free values behind.
-/
namespace Sys2Proof.Machine

/-- The address lies in one of some ranges (base, bytes). -/
def inRanges (rs : List (Nat × Nat)) (a : Nat) : Bool := rs.any fun r => r.1 ≤ a && a < r.1 + r.2

/-- Two lists of ranges share a byte. -/
def rangesMeet (xs ys : List (Nat × Nat)) : Bool :=
  xs.any fun x => ys.any fun y => x.1 < y.1 + y.2 && y.1 < x.1 + x.2

/-- An unspecified byte. -/
def freeByte (ctr pos : Nat) : Byte := Config.freeBits 8 ctr pos

/-- The bytes of some ranges, each unspecified. -/
def freeRange (ctr : Nat) (rs : List (Nat × Nat)) : List (Nat × Byte) :=
  rs.flatMap fun r => (List.range r.2).map fun i => (r.1 + i, freeByte ctr (2 ^ 50 + r.1 + i))

/-- A tile whose cells, row state and status are unspecified (R33). -/
def freeTile (ctr t : Nat) : Tile :=
  { cells := (List.range 32).map fun i => (List.range 96).map fun j => Config.freeBits 36 ctr (10000 * t + 96 * i + j)
    rows := (List.range 32).map fun i =>
      (Config.freeBits 32 ctr (10000 * t + 4000 + i), Config.freeBits 32 ctr (10000 * t + 5000 + i))
    f32 := (Config.freeBits 1 ctr (10000 * t + 6000) : BitVec 1) == 1
    sat := (Config.freeBits 1 ctr (10000 * t + 6001) : BitVec 1) == 1 }

/-- What becomes unspecified with some tiles, and with the row state of others, true where their SAT is too, through the later commands
of their batch, in order (R161): the commands, and the tiles and row states that are unspecified in the end. A command that writes a
tile without reading it settles it; one that so writes only the cells leaves the row state open, and SAT where it keeps SAT. -/
def derived (ts : List Nat) (rs : List (Nat × Bool)) : List Haz → List Haz × List Nat × List (Nat × Bool)
  | [] => ([], ts, rs)
  | h :: r =>
    let kept := ts.filter fun t => !h.fresh.contains t && !h.fcells.contains t
    let rows := (((ts.filter h.fcells.contains).map fun t => (t, true)) ++ rs).filterMap fun q =>
      if h.fresh.contains q.1 then none else some (q.1, q.2 && (!h.fcells.contains q.1 || h.sat.contains q.1))
    if h.tiles.any kept.contains || h.rows.any (fun t => rows.any (·.1 == t))
        || h.sat.any (fun t => !h.fcells.contains t && rows.contains (t, true)) then
      let d := derived (kept ++ h.wtiles.filter fun t => !kept.contains t) rows r
      (h :: d.1, d.2)
    else derived kept rows r

/-! Commands and their regions -/

/-- The place of the regions of command i of batch b: a batch has as many as commands. -/
def Workgroup.hazAt (g : Workgroup) (b i : Nat) : Option Nat :=
  (((List.range g.hazards.length).filter fun n => ((g.hazards[n]?).map (·.batch)) == some b))[i]?

/-- Changes command i of batch b (16 for the open one). -/
def Workgroup.modCmd (g : Workgroup) (b i : Nat) (f : Cmd → Cmd) : Workgroup :=
  if b == 16 then { g with open_ := g.open_.modify i f }
  else { g with batches := g.batches.modify b fun x => { x with cmds := x.cmds.modify i f } }

/-- What a command's record reports becomes unspecified (R160): of a matrix or attention command only what it computes from its
operands, the choice of status 0 or 1, and bits 16 and 17 of a matrix command's DATA. -/
def Cmd.freed (ctr n : Nat) (q : Cmd) : Cmd :=
  if 2 ≤ q.engine then
    { q with status := (Config.freeBits 8 ctr n : BitVec 8).toNat, data := (Config.freeBits 48 ctr (n + 1) : BitVec 48).toNat * 2 ^ 16 }
  else if 1 < q.status then q
  else { q with status := (Config.freeBits 1 ctr n : BitVec 1).toNat
                data := if q.engine == 0 then (Config.freeBits 2 ctr (n + 1) : BitVec 2).toNat * 2 ^ 16 else q.data }

/-- The records of the commands with some regions become unspecified. -/
def Workgroup.freeRecords (g : Workgroup) (ctr : Nat) (h : Haz) : Workgroup :=
  (List.range g.hazards.length).foldl (fun g i =>
    if ((g.hazAt h.batch i).bind fun n => g.hazards[n]?) == some h then g.modCmd h.batch i (Cmd.freed ctr (2 ^ 30 + 2 * i)) else g) g

/-- The results of a command of slot k's workgroup in memory and in its record become unspecified; of one that has not run, when it
has. -/
def State.spoilOne (s : State) (c k : Nat) (h : Haz) : State :=
  if h.waiting then
    s.modWg c k fun g => { g with hazards := g.hazards.map fun x => if x == h then { x with spoiled := true } else x }
  else
    let n := s.free
    let s := ((s.bump).scrWrite c (freeRange n h.writes)).modWg c k fun g => g.freeRecords n h
    if h.gwrites.isEmpty then s else s.everywhere (freeRange n h.gwrites)

/-- The results of a command become unspecified, and those that later commands of its batch have derived from its tiles. -/
def State.spoil (s : State) (c k : Nat) (h : Haz) : State :=
  match s.wg? c k with
  | none => s
  | some g =>
    let later := ((g.hazards.dropWhile (· != h)).drop 1).filter fun x => x.batch == h.batch
    let d := if h.waiting then ([], [], []) else derived h.wtiles [] later
    let s := (h :: d.1).foldl (fun s x => s.spoilOne c k x) s
    let n := s.free
    let s := d.2.2.foldl (fun s t => s.modWg c k fun g =>
      { g with tiles := g.tiles.modify t.1 fun x =>
          { x with rows := (freeTile n t.1).rows, sat := if t.2 then (freeTile n t.1).sat else x.sat } }) s.bump
    d.2.1.foldl (fun s t => s.modWg c k fun g => { g with tiles := g.tiles.modify t fun _ => freeTile n t }) s

/-- The commands in flight of a core's workgroups, each with its slot. -/
def State.hazardsOf (s : State) (c : Nat) : List (Nat × Haz) :=
  (List.range Config.nSlots).flatMap fun k =>
    match s.wg? c k with
    | some g => g.hazards.map fun h => (k, h)
    | none => []

/-- The reader of a command's operands, in the place of a slot and an agent. -/
def engineReader : Nat × Nat := (8, 17)

/-- A scratchpad byte as an agent (slot, and 16 for the driver) or a command reads it: unspecified in a result region, and where
another agent has written over an operand (R160). -/
def State.scrHaz (s : State) (c : Nat) (who : Nat × Nat) (a : Nat) : Byte :=
  if (s.hazardsOf c).any fun h => inRanges h.2.writes a then freeByte s.free (2 ^ 24 + a)
  else if (s.core c).smear.any fun m => m.1 == a && m.2 != who then freeByte s.free (2 ^ 25 + a)
  else s.scr c a

/-- Bytes written anew are what was written, for every reader. -/
def Core.unsmear (co : Core) (bs : List (Nat × Byte)) : Core :=
  { co with smear := co.smear.filter fun m => !bs.any fun b => b.1 == m.1 }

/-- A write of scratchpad bytes by a warp or a driver. -/
def State.scrWriteHaz (s : State) (c : Nat) (who : Nat × Nat) (bs : List (Nat × Byte)) : State :=
  let hs := s.hazardsOf c
  let s := if (s.core c).smear.isEmpty then s else s.modCore c fun co => co.unsmear bs
  if hs.isEmpty then s.scrWrite c bs else
    let hit := hs.filter fun h => bs.any fun b => inRanges h.2.reads b.1 || inRanges h.2.writes b.1
    let n := s.free
    let s := hit.foldl (fun s h => s.spoil c h.1 h.2) s.bump
    let onto := bs.filter fun b => hs.any fun h => inRanges h.2.reads b.1
    let s := s.modCore c fun co => { co with smear := onto.map (fun b => (b.1, who)) ++ co.smear }
    s.scrWrite c (bs.map fun b => if hs.any fun h => inRanges h.2.writes b.1 then (b.1, freeByte n (2 ^ 24 + b.1)) else b)

/-- The batch of the command that runs now: the open one (16), or that of a waiting command. -/
def State.batchNow (s : State) : Nat := match s.replay with | some p => p.1 | none => 16

/-- A write of scratchpad bytes by a command of slot k's workgroup: bytes that an earlier command of the batch also writes are
unspecified, and an earlier command that reads written bytes has read unspecified values (R161); another batch's command is as
R160 says. -/
def State.scrWriteCmd (s : State) (c k : Nat) (bs : List (Nat × Byte)) : State :=
  let hs := s.hazardsOf c
  let s := if (s.core c).smear.isEmpty then s else s.modCore c fun co => co.unsmear bs
  if hs.isEmpty then s.scrWrite c bs else
    let own (h : Nat × Haz) : Bool := h.1 == k && h.2.batch == s.batchNow
    let hit := hs.filter fun h => bs.any fun b => inRanges h.2.reads b.1 || (!own h && inRanges h.2.writes b.1)
    let n := s.free
    let s := hit.foldl (fun s h => s.spoil c h.1 h.2) s.bump
    s.scrWrite c (bs.map fun b => if hs.any fun h => inRanges h.2.writes b.1 then (b.1, freeByte n (2 ^ 24 + b.1)) else b)

/-- A warp has written some of its registers: an `mmag` in flight that names one of them loses its results (R33, R160). -/
def State.vregHaz (s : State) (c k w : Nat) (regs : List Nat) : State :=
  match s.wg? c k with
  | none => s
  | some g =>
    g.hazards.foldl (fun s h =>
      match h.vreg with
      | some (v, n) => if v == w && regs.contains n then s.spoil c k h else s
      | none => s) s

/-- The regions of batches n are released by a wait on it (R160, R176), those of earlier batches of the number too, which stand as
batch n + 32, n + 64 … while no wait and no pop has released them. -/
def Workgroup.release (g : Workgroup) (n : Nat) : Workgroup := { g with hazards := g.hazards.filter (fun h => h.batch % 32 != n) }

/-- The regions of one batch are released (R178). -/
def Workgroup.releaseOne (g : Workgroup) (b : Nat) : Workgroup := { g with hazards := g.hazards.filter (fun h => h.batch != b) }

/-! Page frames (R190, R319, R320) -/

/-- Head dimension of a DSEL (R169, R183), bytes of a frame (R320). -/
def headDim (dsel : Nat) : Nat := 48 * (dsel + 1)
def frameBytes (d : Nat) : Nat := 512 + 96 * d

/-- The head dimension of the frame at a physical base, where a `kvapp` has named it (log 27). -/
def State.frameDim? (s : State) (pa : Nat) : Option Nat :=
  (s.frameDims.find? fun q => q.1 == pa && q.2.1 == s.mem.nat pa 8).map (·.2.2)

/-- The head dimension of the frame, an open one of the four where none has been named. -/
def State.frameDim (s : State) (pa : Nat) : Nat := (s.frameDim? pa).getD (headDim (Config.freeNat pa (s.mem.nat pa 8) % 4))

/-- The K and the V of slots u to v - 1 of a frame of head dimension d, as physical ranges (R320). -/
def slotRanges (pa d u v : Nat) : List (Nat × Nat) := [(pa + 512 + d * u, d * (v - u)), (pa + 512 + 48 * d + d * u, d * (v - u))]

/-- Slots u to v - 1 of a frame of head dimension d become unspecified, as `kvtrim` leaves them (R187, R284). -/
def State.freeSlots (s : State) (pa d u v : Nat) : State := (s.bump).everywhere (freeRange s.free (slotRanges pa d u v))

/-- The same of a frame whose head dimension is not known: every byte that is one of the slots' for some dimension, until a `kvapp`
names it (log 27). -/
def State.openTrim (s : State) (c pa u v : Nat) : State :=
  let rs := (List.range 4).flatMap fun k => slotRanges pa (headDim k) u v
  let as := ((rs.flatMap fun r => (List.range r.2).map (r.1 + ·)).filter fun a => !s.trims.any fun t => t.old.any (·.1 == a)).eraseDups
  { (s.bump).everywhere (freeRange s.free rs) with
    trims := s.trims ++ [{ pa, handle := s.mem.nat pa 8, u, v, old := as.map fun a => (a, s.devByte c a) }] }

/-- The head dimension of a frame becomes known: what its trims leave stays unspecified, and the other bytes are as they were. -/
def State.nameDim (s : State) (pa h d : Nat) : State :=
  let ts := s.trims.filter fun t => t.pa == pa && t.handle == h
  let s := if ts.isEmpty then s else
    s.everywhere ((ts.flatMap (·.old)).filter fun o => !inRanges (ts.flatMap fun t => slotRanges pa d t.u t.v) o.1)
  { s with frameDims := (pa, h, d) :: s.frameDims.filter (fun q => q.1 != pa), trims := s.trims.filter fun t => t.pa != pa }

/-- What a trim from slot v down to slot u leaves, of a frame whose head dimension is known or not. -/
def State.trimSlots (s : State) (c pa u v : Nat) : State :=
  match s.frameDim? pa with
  | some d => s.freeSlots pa d u v
  | none => s.openTrim c pa u v

/-- A `kvapp` names a frame's head dimension, where none has (R319; log 27). -/
def State.namesDim (s : State) (pa d : Nat) : State :=
  if (s.frameDim? pa).isSome then s else s.nameDim pa (s.mem.nat pa 8) d

/-- The published frames among those of the own directory that hold one of some bytes: index, generation, base and bytes. -/
def State.publishedHit (s : State) (bs : List (Nat × Byte)) : List (Nat × Nat × Nat × Nat) :=
  (List.range s.img.dirn).filterMap fun i =>
    let e := s.img.dirbase + 32 * i
    let w := s.mem.nat (e + 16) 2
    let f := s.mem.nat (e + 8) 8 % 2 ^ 52
    if w % 256 == 2 then
      let n := frameBytes (s.frameDim f)
      if bs.any fun b => f ≤ b.1 && b.1 < f + n then some (i, w / 256, f, n) else none
    else none

/-- The commands in flight that read or change a page frame, with core and slot. -/
def State.frameHazards (s : State) : List (Nat × Nat × Haz) :=
  s.residents.flatMap fun p => (p.2.2.hazards.filter fun h => h.attn != [] || h.kv != []).map fun h => (p.1, p.2.1, h)

/-- The frames that commands in flight change, as physical ranges. -/
def State.kvRanges (s : State) : List (Nat × Nat) := s.frameHazards.flatMap fun h => h.2.2.kv

/-- A byte as a load reads it, given `kvRanges`: unspecified in a frame that a command in flight changes (R160, R190). -/
def State.loadByte (s : State) (a : Access) (kv : List (Nat × Nat)) (pa : Nat) : Byte :=
  if inRanges kv pa then freeByte s.free (2 ^ 26 + pa) else s.accByte a pa

/-- The ranges of the frame that a command in flight touches, as an access of an engine class finds them: cache-page commands take
effect one after another (R182, R190). -/
def Haz.frame (cls : Nat) (h : Haz) : List (Nat × Nat) := if cls == 3 && h.cls == 3 then [] else h.attn ++ h.kv

/-- What a store does to the frames that it hits, of an engine class for a command: a command in flight on one loses its results,
and the bytes are unspecified (R160, R190); a published one is unspecified from then on, until it is retired (R320). -/
def State.storeFrames (s : State) (bs : List (Nat × Byte)) (cls : Nat := 15) : State × List (Nat × Byte) :=
  let hs := s.frameHazards.filter fun h => bs.any fun b => inRanges (h.2.2.frame cls) b.1
  let n := s.free
  let s := if hs.isEmpty then s else hs.foldl (fun s h => s.spoil h.1 h.2.1 h.2.2) s.bump
  let s := { s with ruined := s.publishedHit bs ++ s.ruined.filter s.ruinLive
                    trims := s.trims.map fun t => { t with old := t.old.filter fun o => !bs.any (·.1 == o.1) } }
  (s, if hs.isEmpty then bs else
    bs.map fun b => if hs.any fun h => inRanges (h.2.2.frame cls) b.1 then (b.1, freeByte n (2 ^ 26 + b.1)) else b)

/-- A store of bytes by a warp, a driver, an ostler or a command that is none of the frame commands' own. -/
def State.storeHaz (s : State) (a : Access) (bs : List (Nat × Byte)) (cls : Nat := 15) : State :=
  let r := s.storeFrames bs cls
  r.1.store a r.2

end Sys2Proof.Machine
end

