-- ==== Sys2Proof/Machine/Relay.lean ====
section
/-!
DEFINITION. Relay loops (R198, R266 to R277): positions, rounds, commits, and what stops a speculative leg. After it, the checks
that follow any change to a workgroup's warps (R17, R145, R155).
-/
namespace Sys2Proof.Machine

/-! The relay record -/

def Relay.width (r : Relay) : Nat := bitsOf r.word.toNat 3 0
def Relay.ccnt (r : Relay) : Nat := bitsOf r.word.toNat 7 4
def Relay.cbase (r : Relay) : Nat := bitsOf r.word.toNat 15 8
def Relay.maxit (r : Relay) : Nat := bitsOf r.word.toNat 63 32

/-- The position runs in the round (R268 step 1). -/
def Relay.runs (r : Relay) (p : Nat) : Bool := p < r.width && r.done + p < r.maxit

/-- Number of running legs. -/
def Relay.n (r : Relay) : Nat := min r.width (r.maxit - r.done)

/-- Warp at a position, position of a warp (R266). -/
def Relay.warpAt (r : Relay) (p : Nat) : Nat := (r.base + p) % r.width
def Relay.posOf (r : Relay) (w : Nat) : Nat := (w + r.width - r.base) % r.width

def freshLeg : Leg :=
  { state := .idle, guess := none, inGuess := false, matched := false, out := [], exitMark := false, conflict := false, buf := [],
    reads := [], carried := false }

def Relay.leg (r : Relay) (p : Nat) : Leg := r.legs.getD p freshLeg
def Relay.modLeg (r : Relay) (p : Nat) (f : Leg → Leg) : Relay := { r with legs := r.legs.modify p f }

/-- The running relay of which warp w is a leg, and its position. -/
def Workgroup.legOf (g : Workgroup) (w : Nat) : Option (Relay × Nat) :=
  match g.relay with
  | some r => if r.begun && w < r.width then some (r, r.posOf w) else none
  | none => none

/-- Warp w is a leg at position 1 or higher (WSTAT.SPEC). -/
def Workgroup.spec (g : Workgroup) (w : Nat) : Bool := match g.legOf w with | some (_, p) => 1 ≤ p | none => false

def Workgroup.modRelay (g : Workgroup) (f : Relay → Relay) : Workgroup := { g with relay := g.relay.map f }

/-- Carry registers of a warp. -/
def Relay.carryOf (r : Relay) (w : Warp) : List Lanes := (List.range r.ccnt).map fun i => w.v.getD (r.cbase + i) zeroLanes

/-- Writes the carry registers, in all 32 lanes; no earlier result of them is in flight any more. -/
def Relay.putCarry (r : Relay) (c : List Lanes) (w : Warp) : Warp :=
  let w := w.settle ((List.range r.ccnt).map fun i => allLanes (.v (r.cbase + i)))
  { w with v := (List.range w.v.length).map fun i =>
      if r.cbase ≤ i && i < r.cbase + r.ccnt then c.getD (i - r.cbase) zeroLanes else w.v.getD i zeroLanes }

/-- The carry registers of some warps have been written: an `mmag` in flight that names one of them loses its results (R33, R160). -/
def State.carryHaz (s : State) (c k : Nat) (r : Relay) (ws : List Nat) : State :=
  ws.foldl (fun s w => s.vregHaz c k w ((List.range r.ccnt).map (r.cbase + ·))) s

/-- The warps whose carry registers the start of a round writes (R268 step 3). -/
def Relay.guessers (r : Relay) : List Nat := ((List.range r.n).drop 1).map r.warpAt

/-- Sends a leg to a routine as one gang of its non-exited lanes, outside any `rep` (R268, R272). -/
def Warp.sendTo (w : Warp) (pc : W64) (clock : Nat) : Warp :=
  { (w.setPcs w.live pc).meeting with
    block := .none, waits := [], readySince := clock, rep := { w.rep with active := false, left := 0 } }

/-- The PC of a routine of the relay: a byte offset from the warp code (R198). -/
def Workgroup.codePc (g : Workgroup) (off : W64) : W64 := g.kimg + BitVec.ofNat 64 g.hdr.wcode + off

/-! Rounds -/

/-- Starts the body of the round (R268 step 4). -/
def Workgroup.startBody (g : Workgroup) (clock : Nat) (r : Relay) : Workgroup :=
  let pc := g.codePc r.body
  let g := (List.range r.n).foldl (fun g p =>
    let l := r.leg p
    let w := r.warpAt p
    if p == 0 && l.carried then { g with warps := g.warps.modify w fun x => { x with block := .none, readySince := clock } }
    else if p == 0 || l.state == .guessed then { g with warps := g.warps.modify w fun x => x.sendTo pc clock }
    else g) g
  let legs := (List.range r.legs.length).map fun p =>
    let l := r.leg p
    if p < r.n && (p == 0 || l.state == .guessed) then { l with state := .body } else l
  { g with relay := some { r with bodies := true, legs := legs } }

/-- Every running leg at position 1 or higher has guessed or stopped in its guess routine. -/
def Relay.guessesDone (r : Relay) : Bool :=
  (List.range r.n).all fun p => p == 0 || (r.leg p).state == .guessed || (r.leg p).state == .stopped

/-- Starts a round (R268 steps 1 to 3): legs at position 1 and higher receive the carry and run the guess routine; the positions
that do not run wait in `rjoin`. -/
def Workgroup.startRound (g : Workgroup) (clock : Nat) (r : Relay) : Workgroup :=
  let pc := g.codePc r.guess
  let g := (List.range r.width).foldl (fun g p =>
    if p < r.n then g else { g with warps := g.warps.modify (r.warpAt p) fun x => if x.gone then x else { x with block := .rjoin } }) g
  let g := (List.range r.n).foldl (fun g p =>
    if p == 0 then g
    else { g with warps := g.warps.modify (r.warpAt p) fun x => (r.putCarry r.rcarry x).sendTo pc clock }) g
  let legs := (List.range r.legs.length).map fun p =>
    if p < r.n && p != 0 then { freshLeg with state := .guessing } else r.leg p
  let r := { r with bodies := false, legs := legs }
  if r.guessesDone then g.startBody clock r else { g with relay := some r }

/-- The first rejected position (R269). -/
def Relay.rejected (r : Relay) : Nat :=
  ((List.range r.n).find? fun p => p != 0 &&
    ((r.leg p).state == .stopped || !(r.leg (p - 1)).matched || (r.leg (p - 1)).exitMark || (r.leg p).conflict)).getD r.n

/-- The leg at r is carried forward (R271): it stopped in its body, its guess was right, and it has no conflict. Above a committed
`rsig.exit` every leg is discarded (R277). -/
def Relay.carries (r : Relay) (k : Nat) : Bool :=
  k < r.n && (r.leg k).state == .stopped && !(r.leg k).inGuess && (r.leg (k - 1)).matched && !(r.leg k).conflict
    && !(r.leg (k - 1)).exitMark

/-- Every running leg has completed `racc` or is stopped, and the bodies have begun (R268 step 5). -/
def Relay.decided (r : Relay) : Bool :=
  r.begun && r.bodies && (List.range r.n).all fun p => (r.leg p).state == .racc || (r.leg p).state == .stopped

/-- What has become of a buffered store. -/
inductive Performed where
  | done (s : State)
  /-- another core holds a line of it pinned -/
  | held (line : Nat)
  /-- it rewrites part of a scratchpad word with an uncorrectable error: the state with the error met -/
  | bad (s : State)

/-- An address of a buffered store as a trap reports it, by the line or the scratchpad byte. -/
def BufStore.addr (b : BufStore) (n : Nat) : Nat := ((b.vlines.find? fun q => q.1 == n).map (·.2)).getD 0

/-- One buffered store of warp w, performed as an access of the workgroup's core (R232, R270). -/
def State.perform (s : State) (c k w vf : Nat) (b : BufStore) : Performed :=
  if b.scratch then
    match s.scrBad c (partialBytes b.bytes) with
    | some a => .bad (s.scratchError c k w a (b.addr a))
    | none => .done (s.scrWriteHaz c (k, w) b.bytes)
  else
    match s.firstPin c (b.bytes.map fun x => lineOf x.1).eraseDups with
    | some ln => .held ln
    | none =>
      let s := s.storeHaz { core := c, slot := k, vf, scope := b.scope, sid := b.sid, cpol := b.cpol } b.bytes
      .done (b.vlines.foldl (fun s q => s.track vf q.2) s)

/-- The warp of a leg whose waiting store has been performed. -/
def Warp.unpin (w : Warp) (st : LegState) : Warp :=
  match w.block with
  | .pin .. => { w with block := if st == .stopped then .stopped else .racc }
  | _ => w

/-- The warp of a leg whose store waits; PINWAIT counts from its first RETRY. -/
def Warp.pinOn (w : Warp) (line addr clock : Nat) : Warp :=
  match w.block with
  | .pin _ _ t => { w with block := .pin line addr t }
  | _ => { w with block := .pin line addr clock }

/-- Performs the buffered stores of the leg at p, oldest first; false when one waits under RETRY, which blocks the leg's warp, or
meets an uncorrectable error (R270). -/
def State.performLeg (s : State) (c k p : Nat) : Nat → State × Bool
  | 0 => (s, true)
  | n + 1 =>
    match s.wg? c k with
    | none => (s, true)
    | some g =>
      match g.relay with
      | none => (s, true)
      | some r =>
        match (r.leg p).buf with
        | [] => (s, true)
        | b :: rest =>
          let w := r.warpAt p
          match s.perform c k w g.vf b with
          | .done s' =>
            let s' := s'.modWg c k fun g => g.modRelay fun r => r.modLeg p fun l => { l with buf := rest }
            State.performLeg (s'.modWarp c k w fun x => x.unpin (r.leg p).state) c k p n
          | .held ln => (s.modWarp c k w fun x => x.pinOn ln (b.addr ln) s.clock, false)
          | .bad s' => (s', false)

/-- Performs the buffers of the positions in order. -/
def State.performLegs (s : State) (c k : Nat) : List Nat → State × Bool
  | [] => (s, true)
  | p :: r =>
    match s.wg? c k with
    | none => (s, true)
    | some g =>
      let n := match g.relay with | some q => (q.leg p).buf.length | none => 0
      match s.performLeg c k p (n + 1) with
      | (s', true) => State.performLegs s' c k r
      | (s', false) => (s', false)

/-- One tagged append of a function is trimmed, as by `kvtrim`: the valid count falls back (R186, R270), but for a frame that has been
published since, which nothing writes (R187, R320). -/
def State.trimAppend (s : State) (vf : Nat) (a : Append) : State :=
  let vc := s.mem.nat (a.pa + 8) 1
  if vc ≤ a.before || s.mem.nat (a.pa + 9) 1 % 2 == 1 then s
  else ((s.everywhere [(a.pa + 8, BitVec.ofNat 8 a.before)]).freeSlots a.pa a.d a.before vc).trackRange vf a.va (frameBytes a.d)

/-- Tagged appends are trimmed, the last first. -/
def State.trimAppends (s : State) (vf : Nat) (as : List Append) : State := as.reverse.foldl (fun s a => s.trimAppend vf a) s

/-- A tagged append that has not run yet is settled with its round: it stands, or is to be trimmed when it has run (R277). -/
def Retry.settle (drop : List Nat) (r : Retry) : Retry :=
  match r.leg with
  | some p => { r with leg := none, trim := drop.contains p }
  | none => r

/-- The commands that wait to run are settled with the round. -/
def Workgroup.settleTags (g : Workgroup) (drop : List Nat) : Workgroup :=
  let fix (q : Cmd) : Cmd := match q.pend with | .retry r => { q with pend := .retry (r.settle drop) } | _ => q
  { g with open_ := g.open_.map fix, batches := g.batches.map fun b => { b with cmds := b.cmds.map fix } }

/-- The round ends without the legs at some positions: their tagged appends are trimmed (R270, R276). -/
def State.dropLegs (s : State) (c k vf : Nat) (r : Relay) (drop : List Nat) : State :=
  (s.trimAppends vf (r.appends.filter fun a => drop.contains a.leg)).modWg c k fun g => g.settleTags drop

/-- The relay command in a batch has finished (R198): its status and DATA. -/
def Workgroup.relayDone (g : Workgroup) (st cnt : Nat) : Workgroup :=
  let fix (q : Cmd) : Cmd := if q.pend == .relay then { q with pend := .none, status := st, data := cnt * 2 ^ 16 } else q
  { g with open_ := g.open_.map fix, batches := g.batches.map fun b => { b with cmds := b.cmds.map fix } }

/-- Every leg leaves `rjoin` (R142, R272). -/
def Workgroup.leaveJoin (g : Workgroup) (clock : Nat) (r : Relay) (carry : Option (List Lanes)) : Workgroup :=
  { g with
    warps := (List.range g.warps.length).map fun w =>
      let x := g.warps.getD w default
      if w < r.width && !x.gone then
        let x := match carry with | some c => r.putCarry c x | none => x
        x.sendTo ((r.joins.getD w 0) + 12) clock
      else x
    drv := if g.drv.block == .rwait then { g.drv with block := .none } else g.drv }

/-- All lanes wait, and not at one word (R136). -/
def Warp.stuck (x : Warp) : Bool := x.live != 0 && x.live &&& ~~~x.meet == 0 && !x.met

/-- A carried leg resumes in the body as leg 0: one that stopped because its lanes wait at several words meets that again (R136,
R271). -/
def State.resumeCarried (s : State) (c k : Nat) : State :=
  match (s.wg? c k).bind fun g => g.relay.map fun r => (g, r) with
  | none => s
  | some (g, r) =>
    let w := r.warpAt 0
    let x := g.warps.getD w default
    if !r.bodies || !(r.leg 0).carried || !x.stuck then s
    else if x.hitch &&& x.live != 0 then s.modWarp c k w Warp.releaseHitch
    else s.raiseTrap c k w { cls := .unif }

/-- The decision of a round and what follows (R268 steps 5 to 7, R269 to R272). -/
def State.decide (s : State) (c k : Nat) : State :=
  match s.wg? c k with
  | none => s
  | some g =>
    match g.relay with
    | none => s
    | some r =>
      if !r.decided then s else
      let rej := r.rejected
      let carry := r.carries rej
      match s.performLegs c k (List.range rej ++ (if carry then [rej] else [])) with
      | (s, false) => s
      | (s, true) =>
        let out := (r.leg (rej - 1)).out
        let exit := r.exit || (List.range rej).any fun p => (r.leg p).exitMark
        let drop := (List.range r.width).filter fun p => rej ≤ p && !(carry && p == rej)
        let s := s.dropLegs c k g.vf r drop
        let leg0 := if carry then { freshLeg with state := .stopped, carried := true, exitMark := (r.leg rej).exitMark } else freshLeg
        let r' := { r with base := (r.base + rej) % r.width, done := r.done + rej, rcarry := out, exit := exit, appends := [],
                           legs := leg0 :: List.replicate (r.width - 1) freshLeg }
        let s := s.modWg c k fun g =>
          if exit || r'.done == r'.maxit then
            let g := g.leaveJoin s.clock r' (some out)
            { (g.relayDone 0 r'.done) with relay := none, lastDone := r'.done }
          else
            let g := if carry then g else
              { g with warps := g.warps.modify (r'.warpAt 0) fun x => r'.putCarry out { x with block := .rjoin } }
            g.startRound s.clock r'
        let written := if exit || r'.done == r'.maxit then List.range r'.width
          else (if carry then [] else [r'.warpAt 0]) ++ r'.guessers
        (s.carryHaz c k r' written).resumeCarried c k

/-- What follows a change of a leg: the body start, or the decision. -/
def State.relayCheck (s : State) (c k : Nat) : State :=
  match s.wg? c k with
  | none => s
  | some g =>
    match g.relay with
    | none => s
    | some r =>
      if r.begun && !r.bodies && r.guessesDone then (s.modWg c k fun g => g.startBody s.clock r).resumeCarried c k
      else s.decide c k

/-- A leg at position 1 or higher stops (R273): it issues nothing more in the round. -/
def State.legStop (s : State) (c k w : Nat) : State :=
  let s := s.modWg c k fun g =>
    match g.legOf w with
    | some (r, p) =>
      let g := { g with relay := some (r.modLeg p fun l => { l with state := .stopped, inGuess := l.state == LegState.guessing }) }
      { g with warps := g.warps.modify w fun x => { x with block := .stopped, waits := [] } }
    | none => g
  s.relayCheck c k

/-- A trap of warp w: deferred in a speculative leg, taken otherwise (R273). -/
def State.warpTrap (s : State) (c k w : Nat) (t : TrapInfo) : State :=
  match s.wg? c k with
  | none => s
  | some g => if g.spec w then s.legStop c k w else s.raiseTrap c k w t

/-! Collectives outside relays (R145) -/

/-- Warps that an `rfirst` collective counts: not exited, and no leg of a running relay. -/
def Workgroup.counted (g : Workgroup) : List Nat :=
  (List.range g.warps.length).filter fun w => !(g.warps.getD w default).gone && (g.legOf w).isNone

/-- Warp w waits in `rfirst`. -/
def Warp.inRfirst (w : Warp) : Bool := match w.block with | .rfirst _ => true | _ => false

/-- Writes one value to some registers, each in its lanes: an interlocked result. -/
def Warp.putAll (w : Warp) (dest : List (Nat × W32)) (x : W32) : Warp :=
  let w := w.settle (dest.map fun q => (.v q.1, q.2))
  { w with v := (List.range w.v.length).map fun n =>
      (List.range 32).map fun L => if dest.any fun q => q.1 == n && laneBit q.2 L then x else (w.v.getD n []).getD L 0 }

/-- The least w × 32 + L among the warps' true lanes; all ones for none (R145). -/
def Workgroup.rfirstResult (g : Workgroup) (ws : List Nat) : W32 :=
  match (ws.flatMap fun w => ((List.range 32).filter fun L => laneBit (g.warps.getD w default).rfmask L).map (32 * w + ·)).head? with
  | some n => BitVec.ofNat 32 n
  | none => BitVec.allOnes 32

/-- Ends the `rfirst` of the given warps: result, next word. -/
def Workgroup.endRfirst (g : Workgroup) (clock : Nat) (ws : List Nat) (ordinal : Bool) : Workgroup :=
  let res := g.rfirstResult ws
  { g with warps := (List.range g.warps.length).map fun w =>
      let x := g.warps.getD w default
      match x.block with
      | .rfirst d =>
        if ws.contains w then
          let x := x.putAll d res
          let x := x.meeting.passWord
          { x with block := .none, rfmask := 0, readySince := clock, rfirsts := if ordinal then x.rfirsts + 1 else x.rfirsts }
        else x
      | _ => x }

/-- Registers that an `rfirst` of warp w is to write. -/
def Workgroup.rfirstRegs (g : Workgroup) (w : Nat) : List Nat :=
  match (g.warps.getD w default).block with
  | .rfirst d => d.map (·.1)
  | _ => []

/-- Ends the `rfirst` of the given warps of slot k: each warp writes its registers (R33). -/
def State.endRfirst (s : State) (c k : Nat) (ws : List Nat) (ordinal : Bool) : State :=
  match s.wg? c k with
  | none => s
  | some g => ws.foldl (fun s w => s.vregHaz c k w (g.rfirstRegs w)) (s.modWg c k fun g => g.endRfirst s.clock ws ordinal)

/-- Every counted warp has arrived, so that the collective completes: the warps. -/
def Workgroup.rfirstReady (g : Workgroup) : List Nat :=
  let ws := g.counted
  if ws.all fun w => (g.warps.getD w default).inRfirst then ws else []

/-- Completes the collective when every counted warp has arrived. -/
def State.rfirstCheck (s : State) (c k : Nat) : State :=
  match s.wg? c k with
  | none => s
  | some g => if g.rfirstReady.isEmpty then s else s.endRfirst c k g.rfirstReady true

/-! After any change -/

/-- A warp that waits in `dqpop` on an empty queue after the driver has ended, and its word's PC (R155). -/
def Workgroup.starved (g : Workgroup) : Option (Nat × W64) :=
  if !g.drv.ended then none
  else (List.range g.warps.length).findSome? fun w =>
    let x := g.warps.getD w default
    if x.head == g.dqTail then
      (x.waits.find? fun q => q.kind == .dqpop).map fun q => (w, (x.gangOf q.leader).pc)
    else none

/-- What a change of a workgroup's warps or driver can bring about: the `role` deadlock (R17), a collective (R145), a starved
`dqpop` (R155), the end (R155, R300). -/
def State.settle (s : State) (c k : Nat) : State :=
  let s := s.rfirstCheck c k
  match s.wg? c k with
  | none => s
  | some g =>
    match g.roleDeadlock with
    | some (w, d) => s.raiseTrap c k w { cls := .reg, x := regX 2 d }
    | none =>
      match g.starved with
      | some (w, pc) => s.raiseTrap c k w { cls := .ill, pc := some pc }
      | none => if g.finished then s.endWg c k g else s

/-- All lanes wait, not at one word: a `hitch` releases its lanes, else the warp faults with UNIF (R136). -/
def State.meetCheck (s : State) (c k w : Nat) : State :=
  match s.wg? c k with
  | none => s
  | some g =>
    match g.warps[w]? with
    | none => s
    | some x =>
      if x.stuck then
        if x.hitch &&& x.live != 0 then s.modWarp c k w Warp.releaseHitch
        else s.warpTrap c k w { cls := .unif }
      else s

/-- Lanes of warp w have exited: the meeting they leave, and the whole warp's exit (R135, R136). -/
def State.afterExit (s : State) (c k w : Nat) : State :=
  match s.wg? c k with
  | none => s
  | some g =>
    if (g.warps.getD w default).gone then (s.modWg c k fun g => g.warpGone s.clock w).settle c k
    else s.meetCheck c k w

end Sys2Proof.Machine
end

