-- ==== Sys2Proof/Machine/Operands.lean ====
section
/-!
DEFINITION. The operand forms of the warp and driver streams (R65 to R69, R96, R97), the checks made at execution (R14, R18, R68,
R83, R84, R375), and the issue of a word: active lanes, beats, timing, charge, the next word (R21, R64, R83, R117, R205 to R210,
R213).
-/
namespace Sys2Proof.Machine

/-! One issue of a warp word -/

/-- The warp whose word issues, its gang and active lanes; `sh` is the register shift of a `rep` repetition for D, A, B (R117). -/
structure Issue where
  s    : State
  core : Nat
  slot : Nat
  w    : Nat
  wg   : Workgroup
  wp   : Warp
  gang : Gang
  act  : W32
  sh   : Int × Int × Int
  /-- counter of this issue's unspecified values -/
  ctr  : Nat

/-- An unspecified value of this issue (R6). -/
def Issue.free (it : Issue) (w pos : Nat) : BitVec w := Config.freeBits w it.ctr pos

/-- A fixed-latency result of lane L that may not be read yet (R83). -/
def Warp.early (w : Warp) (clock : Nat) (k : SbKey) (L : Nat) : Bool :=
  w.sb.any fun e => e.1 == k && laneBit e.2.1 L && clock < e.2.2

/-- Predicate n of lane L; p7 is true. -/
def Warp.predBit (w : Warp) (n L : Nat) : Bool := n == 7 || laneBit (w.p.getD n 0) L

/-- Shift of each operand in the present repetition (R117). -/
def Warp.shifts (w : Warp) : Int × Int × Int :=
  let r := w.rep
  let d : Int := if r.active then ((r.count - r.left : Nat) : Int) * r.stride else 0
  (if r.mask.getLsbD 0 then d else 0, if r.mask.getLsbD 1 then d else 0, if r.mask.getLsbD 2 then d else 0)

/-- Number of ones of a lane mask. -/
def popMask (m : W32) : Nat := ((List.range 32).filter (laneBit m)).length

def lanesOf (m : W32) : List Nat := (List.range 32).filter (laneBit m)

/-- Scheduler pipes of a warp slot (R204): 2q and 2q + 1 for scheduler q. -/
def pipesOf (wslot : Nat) : List Nat := [2 * (wslot % 4), 2 * (wslot % 4) + 1]

/-- Charge weight of an opcode class (R348). -/
def State.weight (s : State) (cls : Nat) : Nat := bitsOf s.img.weights.toNat (4 * cls + 3) (4 * cls)

/-- What finishing an issue does to the warp and the machine. -/
structure Fin where
  /-- change of the warp's registers and control state -/
  upd     : Warp → Warp := id
  flags   : Byte := 0
  /-- what receives a fixed-latency result, each with its lanes (R82) -/
  keys    : List (SbKey × W32) := []
  /-- what receives an interlocked result instead (R82, R83) -/
  settles : List (SbKey × W32) := []
  uniform : Bool := false
  /-- charge class (R348) -/
  cls     : Nat := 0
  /-- next PC of each candidate lane, when not the next word -/
  next    : Option (Nat → W64) := none
  /-- the word is a control word that no `rep` repeats -/
  stay    : Bool := false

/-- Beats of the issue (R205, R206). -/
def Issue.beats (it : Issue) (uniform : Bool) : Nat :=
  if uniform then 1 else max 1 (((List.range 8).filter (sliceMeets it.act)).length)

/-- Candidate lanes move on: past the word, or where the word sends them; inside a `rep` sequence they stay until the last
repetition (R117). -/
def Issue.advance (it : Issue) (f : Fin) (w : Warp) : Warp :=
  if w.rep.active && 1 < w.rep.left then { w with rep := { w.rep with left := w.rep.left - 1 } }
  else
    let w := if w.rep.active then { w with rep := { w.rep with active := false, left := 0 } } else w
    if f.stay then w else
    match f.next with
    | none => w.setPcs it.gang.cand (it.gang.pc + 12)
    | some g => { w with pcs := (List.range 32).map fun L => if laneBit it.gang.cand L then g L else w.pcOf L }

/-- The pipe that an issue takes until its last beat (R204). -/
def Core.takePipe (co : Core) (wslot clock last : Nat) : Core :=
  match (pipesOf wslot).find? (fun p => co.pipes.getD p 0 ≤ clock) with
  | some p => { co with pipes := co.pipes.set p (last + 1) }
  | none => { co with pipes := co.pipes.set (2 * (wslot % 4)) (last + 1) }

/-- Fixed-latency results that may still be read too early: one that is due stands no longer, nor does one in the lanes where an
interlocked result has overwritten it (R83). -/
def Warp.pending (w : Warp) (clock : Nat) (settled : List (SbKey × W32)) : List (SbKey × W32 × Nat) :=
  (({ w with sb := w.sb.filter fun e => clock < e.2.2 } : Warp).settle settled).sb

/-- The v registers among some keys, each with its lanes. -/
def regsOf (ks : List (SbKey × W32)) : List (Nat × W32) := ks.filterMap fun k => match k.1 with | .v n => some (n, k.2) | _ => none

/-- The v registers that an issue writes (R33). -/
def Fin.regs (f : Fin) : List Nat := (regsOf (f.keys ++ f.settles)).map (·.1)

/-- The end of an issue that completes: registers, flags, timing, charge, next word, gangs, turn. Within a `rep` sequence gangs are not
formed anew (log 13). -/
def Issue.finish (it : Issue) (s : State) (c : Ctl) (f : Fin) : State :=
  let last := s.clock + it.beats f.uniform - 1
  let go (w : Warp) : Warp :=
    let w := it.advance f w
    let w := f.upd w
    let w := if w.rep.active || f.stay then w else w.regroup it.gang.slices
    { w with
      fstat := w.fstat ||| f.flags
      sb := w.pending s.clock f.settles ++ f.keys.map (fun k => (k.1, k.2, last + 4))
      turn := (it.gang.leader + 1) % 8
      readyAt := last + c.gap, lastAt := s.clock, endsAt := last + 1, readySince := last + c.gap, promo := false, passed := c.yld == 1
      waits := w.waits.filter (fun q => q.leader != it.gang.leader) }
  let s := (s.modWarp it.core it.slot it.w go).vregHaz it.core it.slot it.w f.regs
  let s := s.modCore it.core fun co => co.takePipe it.wp.wslot s.clock last
  s.modString (stringOf it.core) fun st => { st with charging := st.charging + s.weight f.cls * popMask it.act }

/-- A trap of the issuing warp; nothing else changes (R7). -/
def Issue.trap (it : Issue) (t : TrapInfo) : Out := .next (it.s.warpTrap it.core it.slot it.w t)

/-- A timed no-op (R64): one beat, its STL, and the candidate lanes advance. -/
def Issue.timed (it : Issue) (c : Ctl) : Out :=
  .next ({ it with act := 0 }.finish it.s c { uniform := true })

/-- The lanes that pass a guard (R21, R64): an early-read guard gives an unspecified bit in each lane (R83). -/
def guardMask (wp : Warp) (clock ctr : Nat) (grd : BitVec 4) (cand : W32) : W32 :=
  let n := grd.toNat % 8
  let neg := grd.getLsbD 3
  maskOf fun L => laneBit cand L &&
    ((if n != 7 && wp.early clock (.p n) L then (Config.freeBits 1 ctr L : BitVec 1) == 1 else wp.predBit n L) != neg)

/-- The issue of the warp in turn, if a gang of it can issue. -/
def State.warpIssue (s : State) (c : Ctl) : Option Issue :=
  match s.cur.agent with
  | .warp w =>
    match s.wg? s.cur.core s.cur.slot with
    | none => none
    | some g =>
      match g.warps[w]? with
      | none => none
      | some wp =>
        match wp.pick with
        | none => none
        | some gang =>
          some { s := s.bump, core := s.cur.core, slot := s.cur.slot, w := w, wg := g, wp := wp, gang := gang,
                 act := guardMask wp s.clock s.free c.grd (gang.cand &&& ~~~(if wp.met then 0 else wp.meet)),
                 sh := wp.shifts, ctr := s.free }
  | _ => none

/-- An opcode of one space in the other stream: ILL (R80 step 2). -/
def State.wrongStream (s : State) : Out :=
  match s.cur.agent with
  | .ostler => .next (s.ostlerTrap s.cur.core .ill)
  | .driver =>
    match s.wg? s.cur.core s.cur.slot with
    | none => .fault .noAgent
    | some _ => .next (s.raiseTrap s.cur.core s.cur.slot 16 { cls := .ill })
  | .warp w =>
    match s.wg? s.cur.core s.cur.slot with
    | none => .fault .noAgent
    | some _ => .next (s.warpTrap s.cur.core s.cur.slot w { cls := .ill })

/-- Is the agent in turn a warp? -/
def State.warpTurn (s : State) : Bool := match s.cur.agent with | .warp _ => true | _ => false

/-- The guard predicate of the word is read too early in some candidate lane (R83). -/
def Issue.guardEarly (it : Issue) (grd : BitVec 4) : Bool :=
  let n := grd.toNat % 8
  n != 7 && it.wp.sb != [] && (lanesOf (it.gang.cand &&& ~~~(if it.wp.met then 0 else it.wp.meet))).any (it.wp.early it.s.clock (.p n))

/-- Runs a warp word: wrong stream, timed no-op, early guard in stall-check mode (R84) where the word may trap, else its body. -/
def guardedWord (c : Ctl) (traps : Bool) (body : Issue → Out) (s : State) : Out :=
  if !s.warpTurn then s.wrongStream else
  match s.warpIssue c with
  | none => .fault .noAgent
  | some it =>
    if c.grd == 0xF then it.timed c
    else if traps && it.wp.stchk && it.guardEarly c.grd then it.trap { cls := .stallchk, x := 2 ^ 60 + c.grd.toNat % 8 }
    else body it

/-- Runs a warp word that may trap. -/
def warpWord (c : Ctl) (body : Issue → Out) (s : State) : Out := guardedWord c true body s

/-! Operands of a warp word -/

/-- How an opcode reads a short immediate (R69). -/
inductive Imm where
  | sx | zx | f32 | bf2 | i8 | raw
  deriving DecidableEq, Repr, Inhabited

def Imm.val (k : Imm) (v : W16) : W32 :=
  match k with
  | .sx => v.signExtend 32
  | .zx => v.zeroExtend 32
  | .f32 => v ++ (0 : W16)
  | .bf2 => v ++ v
  | .i8 => let b : BitVec 8 := v.setWidth 8; b ++ b ++ b ++ b
  | .raw => v.zeroExtend 32

end Sys2Proof.Machine
namespace Sys2Proof

/-- Lane that supplies lane L (R67). -/
def Xbar.lane (x : Xbar) (act : W32) (L : Nat) : Nat :=
  match x with
  | .id => L
  | .rot k => (L + k.toNat) % 32
  | .bc k => k.toNat
  | .bfly k => Nat.xor L k.toNat
  | .mir k => Nat.xor L (2 ^ k.toNat - 1)
  | .fa => ((List.range 32).find? (laneBit act)).getD L
  | .bcs k => L / 4 * 4 + k.toNat

end Sys2Proof
namespace Sys2Proof.Machine

/-- Which operand: D 0, A 1, B 2. -/
def Issue.shift (it : Issue) (i : Nat) : Int := if i == 0 then it.sh.1 else if i == 1 then it.sh.2.1 else it.sh.2.2

/-- The window of an index register; an early one is unspecified (R115). -/
def Issue.window (it : Issue) (i n : Nat) : Nat × Nat :=
  if it.wp.early it.s.clock (.win n) 0 then ((it.free 8 (400 + i)).toNat, (it.free 9 (410 + i)).toNat)
  else it.wp.win.getD n (0, 0)

/-- Index register n of lane S; an early one is unspecified. -/
def Issue.index (it : Issue) (i n S : Nat) : Nat :=
  if it.wp.early it.s.clock (.x n) S then (it.free 16 (500 + 32 * i + S)).toNat
  else ((it.wp.x.getD n []).getD S 0).toNat

/-- The register number of an operand in lane S (R18, R68, R117). -/
def Issue.regNo (it : Issue) (i : Nat) (o : Opnd) (S : Nat) : Option Int :=
  match o with
  | .vreg n _ => some (n.toNat + it.shift i)
  | .vidx xn off _ => some (it.index i xn.toNat S + off.toInt)
  | _ => none

/-- The lane that an operand reads for lane L. -/
def Issue.srcLane (it : Issue) (o : Opnd) (L : Nat) : Nat :=
  match o with
  | .vreg _ x => x.lane it.act L
  | .vidx _ _ x => x.lane it.act L
  | _ => L

/-- Register n of an operand is out of bounds (R14, R18). -/
def Issue.badReg (it : Issue) (i : Nat) (o : Opnd) (n : Int) : Bool :=
  n < 0 || (it.wp.count : Int) ≤ n ||
    (match o with
     | .vidx xn _ _ => let w := it.window i xn.toNat; n < w.1 || (w.2 : Int) ≤ n
     | _ => false)

/-- The lanes that an operand is read from, in order. -/
def Issue.srcLanes (it : Issue) (o : Opnd) : List Nat :=
  let ls := (lanesOf it.act).map (it.srcLane o)
  (List.range 32).filter ls.contains

/-- The first register of an operand, of `k` consecutive ones, that fails its check: lowest lane, then lowest register (R68, R375). -/
def Issue.badOpnd (it : Issue) (i : Nat) (o : Opnd) (k : Nat) : Option Int :=
  (it.srcLanes o).findSome? fun S =>
    match it.regNo i o S with
    | none => none
    | some n => ((List.range k).map fun (j : Nat) => n + (j : Int)).find? (it.badReg i o)

/-- A repetition of `rep` has moved a pair or quad off its alignment `m` (R76, R117). -/
def Issue.misaligned (it : Issue) (i : Nat) (o : Opnd) (m : Nat) : Option Int :=
  match o with
  | .vreg n _ => let r := (n.toNat : Int) + it.shift i; if it.act != 0 && r % (m : Int) != 0 then some r else none
  | _ => none

/-- REG of the first bad operand, in the order given (R375). -/
def Issue.regTrap (it : Issue) (os : List (Nat × Opnd × Nat)) : Option TrapInfo :=
  (os.findSome? fun p => it.badOpnd p.1 p.2.1 p.2.2).map fun n => { cls := .reg, x := regX 0 n }

/-- Register numbers that an operand reads in the active lanes. -/
def Issue.readRegs (it : Issue) (i : Nat) (o : Opnd) (k : Nat) : List Nat :=
  let ns := match o with
    | .vreg n _ => [(n.toNat : Int) + it.shift i]
    | .vidx .. => ((lanesOf it.act).filterMap fun L => it.regNo i o (it.srcLane o L)).eraseDups
    | _ => []
  ns.flatMap fun n => (List.range k).map fun (j : Nat) => (n + (j : Int)).toNat

/-- The first register of an operand, of `k` consecutive ones, that is read too early: lowest lane, then lowest register (R375). -/
def Issue.earlyReg (it : Issue) (i : Nat) (o : Opnd) (k : Nat) : Option Nat :=
  (it.srcLanes o).findSome? fun S =>
    match it.regNo i o S with
    | none => none
    | some n => (((List.range k).map fun (j : Nat) => n + (j : Int)).find? fun m => 0 ≤ m && it.wp.early it.s.clock (.v m.toNat) S).map
        Int.toNat

/-- Word X of the index register of an operand, or of its window, that is read too early (R115, R375). -/
def Issue.earlyIndex (it : Issue) (o : Opnd) : Option Nat :=
  match o with
  | .vidx xn _ _ =>
    if (it.srcLanes o).any (it.wp.early it.s.clock (.x xn.toNat)) then some (2 * 2 ^ 60 + xn.toNat)
    else if it.wp.early it.s.clock (.win xn.toNat) 0 then some (3 * 2 ^ 60 + xn.toNat) else none
  | _ => none

/-- STALLCHK of the first early read (R84, R375): the sources A and B, the third source, then the index registers and windows of
indexed operands in the order given. `srcs` are v sources; of an opcode that has both, the predicate is the third source (`sel`);
`prior` is an index register read as the third source (`xadd`). A word that also names a register out of bounds takes STALLCHK
first (log 61). -/
def Issue.stallTrap (it : Issue) (srcs : List (Nat × Opnd × Nat)) (all : List (Nat × Opnd)) (preds : List Nat)
    (prior : List Nat := []) : Option TrapInfo :=
  if !it.wp.stchk || it.act == 0 || it.wp.sb == [] then none else
  let early (k : SbKey) : Bool := (lanesOf it.act).any (it.wp.early it.s.clock k)
  let v := srcs.findSome? fun q => it.earlyReg q.1 q.2.1 q.2.2
  let p := (preds.find? fun n => n != 7 && early (.p n)).map (2 ^ 60 + ·)
  let x := (prior.find? fun n => early (.x n)).map (2 * 2 ^ 60 + ·)
  let i := all.findSome? fun q => it.earlyIndex q.2
  (((v.or p).or x).or i).map fun n => { cls := .stallchk, x := n }

/-- Value of v register n of lane S, as an operand i reads it for lane L; an early read is unspecified (R83). -/
def Issue.vreg (it : Issue) (i : Nat) (n : Int) (S L : Nat) : W32 :=
  if it.wp.sb != [] && it.wp.early it.s.clock (.v n.toNat) S then it.free 32 (1000 + 64 * i + L)
  else (it.wp.v.getD n.toNat []).getD S 0

/-- Source operand i of lane L: register j past the named one, immediates read by `k` (R67 to R69, R96). -/
def Issue.src (it : Issue) (i : Nat) (o : Opnd) (k : Imm) (j L : Nat) : W32 :=
  match o with
  | .imm v => k.val v
  | .zero => 0
  | _ =>
    let S := it.srcLane o L
    match it.regNo i o S with
    | some n => it.vreg (i + 4 * j) (n + (j : Int)) S L
    | none => 0

/-- Predicate operand of lane L: class 5 reads false; an early read is unspecified. -/
def Issue.pred (it : Issue) (i : Nat) (o : Opnd) (L : Nat) : Bool :=
  match o with
  | .pred n =>
    if n.toNat != 7 && it.wp.early it.s.clock (.p n.toNat) L then it.free 1 (700 + 32 * i + L) == 1
    else it.wp.predBit n.toNat L
  | _ => false

end Sys2Proof.Machine
namespace Sys2Proof

/-- Predicates that an operand reads. -/
def Opnd.predNo : Opnd → List Nat
  | .pred n => [n.toNat]
  | _ => []

/-- A source that is the same for every lane (R206). -/
def Opnd.uniformSrc : Opnd → Bool
  | .imm _ => true
  | .zero => true
  | .vreg _ (.bc _) => true
  | .vreg _ .fa => true
  | .vidx _ _ (.bc _) => true
  | .vidx _ _ .fa => true
  | _ => false

/-- A destination that allows uniform execution (R206). -/
def Opnd.uniformDest : Opnd → Bool
  | .vreg .. => true
  | .pred _ => true
  | .zero => true
  | _ => false

end Sys2Proof
namespace Sys2Proof.Machine

/-! Writing results -/

/-- Writes lane values to one v register. -/
def Warp.setV (w : Warp) (n : Nat) (act : W32) (val : Nat → W32) : Warp :=
  { w with v := w.v.modify n fun old => (List.range 32).map fun L => if laneBit act L then val L else old.getD L 0 }

/-- Writes register j past the D register: direct, indexed, or discarded by class 5. -/
def Issue.putD (it : Issue) (o : Opnd) (j : Nat) (val : Nat → W32) (w : Warp) : Warp :=
  match o with
  | .vreg n _ => w.setV ((n.toNat : Int) + it.shift 0 + (j : Int)).toNat it.act val
  | .vidx .. =>
    (lanesOf it.act).foldl (fun w L =>
      match it.regNo 0 o L with
      | some n => w.setV (n + (j : Int)).toNat (BitVec.ofNat 32 (2 ^ L)) val
      | none => w) w
  | _ => w

/-- Writes a predicate; p7 and class 5 discard. -/
def Warp.putP (w : Warp) (o : Opnd) (act : W32) (val : Nat → Bool) : Warp :=
  match o with
  | .pred n => { w with p := w.p.modify n.toNat fun old => maskOf fun L => if laneBit act L then val L else laneBit old L }
  | _ => w

/-- The active lanes in which a v destination of k registers reaches register n. -/
def Issue.reaches (it : Issue) (o : Opnd) (k n : Nat) : W32 :=
  maskOf fun L => laneBit it.act L &&
    match it.regNo 0 o L with
    | some m => decide (m ≤ n) && decide ((n : Int) < m + k)
    | none => false

/-- Scoreboard keys of a v destination of k registers. -/
def Issue.keysD (it : Issue) (o : Opnd) (k : Nat) : List (SbKey × W32) :=
  if it.act == 0 then [] else (it.readRegs 0 o k).map fun n => (.v n, it.reaches o k n)

/-- A key in the active lanes; none where no lane is active. -/
def Issue.keyAct (it : Issue) (k : SbKey) : List (SbKey × W32) := if it.act == 0 then [] else [(k, it.act)]

def Issue.keysP (it : Issue) (o : Opnd) : List (SbKey × W32) := o.predNo.flatMap fun n => it.keyAct (.p n)

/-! The shape of lane arithmetic -/

/-- An opcode that computes each active lane from up to three sources and writes a v register (R96): `a`, `b` say how immediates are
read, `none` for a field the opcode does not use; `c` takes the prior D; `fixed` is class F of R82. -/
def laneOp (o : Op3) (cls : Nat) (a b : Option Imm) (c fixed : Bool) (f : W32 → W32 → W32 → W32 × Byte) (s : State) : Out :=
  warpWord o.ctl (fun it =>
    let sa := if a.isSome then [(1, o.a, 1)] else []
    let sb := if b.isSome then [(2, o.b, 1)] else []
    let sc := if c then [(0, o.d, 1)] else []
    match it.stallTrap (sa ++ sb ++ sc) [(0, o.d), (1, o.a), (2, o.b)] [] with
    | some t => it.trap t
    | none =>
      match it.regTrap ((0, o.d, 1) :: (sa ++ sb ++ sc)) with
      | some t => it.trap t
      | none =>
        let res (L : Nat) : W32 × Byte :=
          f (it.src 1 o.a (a.getD .sx) 0 L) (it.src 2 o.b (b.getD .sx) 0 L) (if c then it.src 0 o.d .sx 0 L else 0)
        let flags := (lanesOf it.act).foldl (fun (z : Byte) L => z ||| (res L).2) 0
        let uni := fixed && !c && o.d.uniformDest && (a.isNone || o.a.uniformSrc) && (b.isNone || o.b.uniformSrc)
        .next (it.finish it.s o.ctl
          { upd := it.putD o.d 0 (fun L => (res L).1), flags := flags, cls := cls, uniform := uni,
            keys := if fixed then it.keysD o.d 1 else [], settles := if fixed then [] else it.keysD o.d 1 })) s

/-- An opcode that compares two sources and writes a predicate (R100, R103). -/
def predOp (o : Op3) (cls : Nat) (a b : Imm) (f : W32 → W32 → Bool) (s : State) : Out :=
  warpWord o.ctl (fun it =>
    match it.stallTrap [(1, o.a, 1), (2, o.b, 1)] [(1, o.a), (2, o.b)] [] with
    | some t => it.trap t
    | none =>
      match it.regTrap [(1, o.a, 1), (2, o.b, 1)] with
      | some t => it.trap t
      | none =>
        .next (it.finish it.s o.ctl
          { upd := fun w => w.putP o.d it.act (fun L => f (it.src 1 o.a a 0 L) (it.src 2 o.b b 0 L)), cls := cls,
            uniform := o.a.uniformSrc && o.b.uniformSrc, keys := it.keysP o.d })) s

end Sys2Proof.Machine
end

