-- ==== Sys2Proof/Machine/Flags.lean ====
section
/-!
DEFINITION. Flag computations of lane arithmetic: fitting an exact integer to its type (R35), the float results with their flags
(R37, R101 to R105), conversions (R41 to R44, R106).
-/
namespace Sys2Proof.Machine

/-! Integers -/

/-- A source read in the signedness of TYPE: 0 signed, else unsigned (R98). -/
def intOf (typ : Nat) (x : W32) : Int := if typ == 0 then x.toInt else x.toNat

/-- Least and greatest value of an integer of `w` bits. -/
def intMin (signed : Bool) (w : Nat) : Int := if signed then -(2 ^ (w - 1)) else 0
def intMax (signed : Bool) (w : Nat) : Int := if signed then 2 ^ (w - 1) - 1 else 2 ^ w - 1

/-- Fits an exact result to `w` bits: wraps, or clamps and sets SAT (R35). -/
def fitBits (signed : Bool) (w : Nat) (sat : Bool) (r : Int) : Int × Byte :=
  if sat then
    if r < intMin signed w then (intMin signed w, flSAT)
    else if intMax signed w < r then (intMax signed w, flSAT)
    else (r, 0)
  else (if signed then (r + 2 ^ (w - 1)) % 2 ^ w - 2 ^ (w - 1) else r % 2 ^ w, 0)

/-- Fits an exact result to a 32-bit TYPE (R35, R98). -/
def fit32 (typ : Nat) (sat : Bool) (r : Int) : W32 × Byte :=
  let z := fitBits (typ == 0) 32 sat r
  (BitVec.ofInt 32 z.1, z.2)

/-- The six conditions of COND on integers (R100). -/
def condInt (cond : Nat) (a b : Int) : Bool :=
  match cond with
  | 0 => a == b
  | 1 => a != b
  | 2 => decide (a < b)
  | 3 => decide (a ≤ b)
  | 4 => decide (b < a)
  | _ => decide (b ≤ a)

/-! Floats -/

/-- The modifiers ABS and NEG on an F32 source: the sign bit only (R78). -/
def modF32 (abs neg : Bool) (x : W32) : W32 :=
  let x := if abs then x &&& 0x7FFF_FFFF else x
  if neg then x ^^^ 0x8000_0000 else x

/-- The modifiers on both elements of a BF16X2 source (R105). -/
def modBf2 (abs neg : Bool) (x : W32) : W32 :=
  let x := if abs then x &&& 0x7FFF_7FFF else x
  if neg then x ^^^ 0x8000_8000 else x

/-- Element e of a packed BF16 register, as a value (R45). -/
def bfElem (x : W32) (e : Nat) : FVal := fBF16.decode (x.toNat / 2 ^ (16 * e) % 65536)

/-- Packs two BF16 results and joins their flags. -/
def packBf2 (lo hi : Nat × Byte) : W32 × Byte := (BitVec.ofNat 32 (lo.1 + 65536 * hi.1), lo.2 ||| hi.2)

/-- A value of an operation and its NV condition, rounded to BF16. -/
def bfRound (mode : Mode) (r : FVal × Bool) : Nat × Byte :=
  let z := fBF16.encode mode r.1
  (z.1, z.2 ||| flagIf r.2 flNV)

/-- `fscale` (R101): a × 2^b, ±0 and ±∞ unchanged. A shift beyond ±1,000 is as far as any result reaches. -/
def fscaleF (mode : Mode) (a b : W32) : W32 × Byte :=
  match f32 a with
  | .nan => (nanF32, 0)
  | .inf _ => (a, 0)
  | .fin n m e =>
    if m == 0 then (a, 0)
    else toF32 mode (.fin n m (e + max (-1000) (min 1000 b.toInt)))

/-- `frnd` (R101): an integral value in the mode, sign kept, no flag. -/
def frndF (mode : Mode) (a : W32) : W32 × Byte :=
  match f32 a with
  | .nan => (nanF32, 0)
  | .inf _ => (a, 0)
  | .fin n m e => if 0 ≤ e then (a, 0) else ((toF32 0 (.fin n (roundInt mode n m e) 0)).1, 0)

/-- The conditions of `fsetp` (R103). -/
def condF32 (cond : Nat) (a b : W32) : Bool :=
  let x := f32 a
  let y := f32 b
  let n := x.isNan || y.isNan
  match cond with
  | 0 => !n && !FVal.lt x y && !FVal.lt y x
  | 1 => n || FVal.lt x y || FVal.lt y x
  | 2 => !n && FVal.lt x y
  | 3 => !n && !FVal.lt y x
  | 4 => !n && FVal.lt y x
  | 5 => !n && !FVal.lt x y
  | 6 => !n
  | _ => n

/-- The class mask of an F32 code (R103). -/
def fclassF (a : W32) : W32 :=
  let neg := a.getLsbD 31
  let ex := a.toNat / 2 ^ 23 % 256
  let fr := a.toNat % 2 ^ 23
  let k :=
    if ex == 255 then (if fr == 0 then (if neg then 0 else 7) else if 2 ^ 22 ≤ fr then 9 else 8)
    else if ex != 0 then (if neg then 1 else 6)
    else if fr != 0 then (if neg then 2 else 5)
    else if neg then 3 else 4
  BitVec.ofNat 32 (2 ^ k)

/-! Conversions (R106) -/

/-- The float format of a type code. -/
def cvtFmt : Nat → Option Fmt
  | 2 => some fF32
  | 3 => some fBF16
  | 4 => some fF16
  | 5 => some fE4M3
  | 6 => some fE5M2
  | _ => none

/-- Signedness and width of an integer type code. -/
def cvtInt? : Nat → Option (Bool × Nat)
  | 0 => some (true, 32)
  | 1 => some (false, 32)
  | 7 => some (true, 8)
  | 8 => some (false, 8)
  | 9 => some (true, 16)
  | 10 => some (false, 16)
  | _ => none

/-- The integer that a source register holds in a type. -/
def cvtIntVal (sg : Bool) (w : Nat) (x : W32) : Int :=
  let n := x.toNat % 2 ^ w
  if sg && 2 ^ (w - 1) ≤ n then (n : Int) - 2 ^ w else n

/-- A float value to an integer range, with NV (R44). -/
def floatToInt (sg : Bool) (w : Nat) (mode : Mode) (v : FVal) : Int × Byte :=
  match v with
  | .nan => (0, flNV)
  | .inf n => (if n then intMin sg w else intMax sg w, flNV)
  | .fin n m e =>
    let big := 2 ^ 40 * 2 ^ (-e).toNat < m * 2 ^ e.toNat
    let r : Int := if big then signed n (2 ^ 40) else signed n (roundInt mode n m e)
    if r < intMin sg w then (intMin sg w, flNV)
    else if intMax sg w < r then (intMax sg w, flNV)
    else (r, 0)

/-- `cvt` of one lane (R106). -/
def cvtF (src dst : Nat) (mode : Mode) (sat : Bool) (x : W32) : W32 × Byte :=
  match cvtInt? src, cvtInt? dst, cvtFmt src, cvtFmt dst with
  | some (sg, w), some (sg', w'), _, _ =>
    let z := fitBits sg' w' sat (cvtIntVal sg w x)
    (BitVec.ofInt 32 z.1, z.2)
  | some (sg, w), none, _, some f =>
    let z := f.encode mode (FVal.ofInt (cvtIntVal sg w x))
    (BitVec.ofNat 32 z.1, z.2)
  | none, some (sg, w), some f, _ =>
    let z := floatToInt sg w mode (f.decode (x.toNat % 2 ^ f.width))
    (BitVec.ofInt 32 z.1, z.2)
  | none, none, some f, some g =>
    let z := g.encode mode (f.decode (x.toNat % 2 ^ f.width))
    (BitVec.ofNat 32 z.1, z.2)
  | _, _, _, _ => (0, 0)

end Sys2Proof.Machine
end

