-- ==== Sys2Proof/Machine/Floating.lean ====
section
/-!
DEFINITION. The floating-point instructions of the warp stream (R101 to R105).
-/
namespace Sys2Proof.Machine

/-- Source A after ABSA and NEGA, source B after ABSB and NEGB, C after NEGC (R78, R101). -/
def modA (o : Op3) (x : W32) : W32 := modF32 (o.xtBit 2) (o.xtBit 0) x
def modB (o : Op3) (x : W32) : W32 := modF32 (o.xtBit 3) (o.xtBit 1) x
def modC (o : Op3) (x : W32) : W32 := modF32 false (o.xtBit 4) x

/-- Two F32 sources after their modifiers. -/
def fltOp (o : Op3) (cls : Nat) (f : W32 → W32 → W32 × Byte) (s : State) : Out :=
  laneOp o cls (some .f32) (some .f32) false true (fun a b _ => f (modA o a) (modB o b)) s

/-- One F32 source; `fixed` is class F. -/
def fltOp1 (o : Op3) (cls : Nat) (fixed : Bool) (f : W32 → W32 × Byte) (s : State) : Out :=
  laneOp o cls (some .f32) none false fixed (fun a _ _ => f (modA o a)) s

def execFadd (o : Op3) (s : State) : Out := fltOp o 5 (addF32 o.rnd) s
def execFsub (o : Op3) (s : State) : Out := fltOp o 5 (fun a b => addF32 o.rnd a (b ^^^ 0x8000_0000)) s
def execFmul (o : Op3) (s : State) : Out := fltOp o 6 (mulF32 o.rnd) s
def execFma (o : Op3) (s : State) : Out :=
  laneOp o 6 (some .f32) (some .f32) true true (fun a b c => fmaF32 o.rnd (modA o a) (modB o b) (modC o c)) s
def execFmin (o : Op3) (s : State) : Out := fltOp o 5 (fun a b => (minF32 a b, 0)) s
def execFmax (o : Op3) (s : State) : Out := fltOp o 5 (fun a b => (maxF32 a b, 0)) s
def execFsetp (o : Op3) (s : State) : Out := predOp o 5 .f32 .f32 (fun a b => condF32 o.cond (modA o a) (modB o b)) s
def execFclass (o : Op3) (s : State) : Out := fltOp1 o 5 true (fun a => (fclassF a, 0)) s
def execFrnd (o : Op3) (s : State) : Out := fltOp1 o 5 true (frndF o.rnd) s
def execFrcp (o : Op3) (s : State) : Out := fltOp1 o 8 false frcpF s
def execFrsq (o : Op3) (s : State) : Out := fltOp1 o 8 false frsqF s
def execFsqrt (o : Op3) (s : State) : Out := fltOp1 o 8 false (fsqrtF o.rnd) s
def execFexp2 (o : Op3) (s : State) : Out := fltOp1 o 8 false fexp2F s
def execFlog2 (o : Op3) (s : State) : Out := fltOp1 o 8 false flog2F s
def execFsin (o : Op3) (s : State) : Out := fltOp1 o 8 false fsinF s
def execFcos (o : Op3) (s : State) : Out := fltOp1 o 8 false fcosF s

/-- `fscale` (R101): B is an i32. -/
def execFscale (o : Op3) (s : State) : Out :=
  laneOp o 5 (some .f32) (some .sx) false true (fun a b _ => fscaleF o.rnd (modA o a) b) s

/-- Packed BF16 sources after their modifiers (R105). -/
def hA (o : Op3) (x : W32) : W32 := modBf2 (o.xtBit 2) (o.xtBit 0) x
def hB (o : Op3) (x : W32) : W32 := modBf2 (o.xtBit 3) (o.xtBit 1) x
def hC (o : Op3) (x : W32) : W32 := modBf2 false (o.xtBit 4) x

def hadd2F (mode : Mode) (a b : W32) : W32 × Byte :=
  packBf2 (bfRound mode (FVal.add mode (bfElem a 0) (bfElem b 0))) (bfRound mode (FVal.add mode (bfElem a 1) (bfElem b 1)))
def hmul2F (mode : Mode) (a b : W32) : W32 × Byte :=
  packBf2 (bfRound mode (FVal.mul (bfElem a 0) (bfElem b 0))) (bfRound mode (FVal.mul (bfElem a 1) (bfElem b 1)))
def hfma2F (mode : Mode) (a b c : W32) : W32 × Byte :=
  packBf2 (bfRound mode (FVal.fma mode (bfElem a 0) (bfElem b 0) (bfElem c 0)))
    (bfRound mode (FVal.fma mode (bfElem a 1) (bfElem b 1) (bfElem c 1)))

def execHadd2 (o : Op3) (s : State) : Out :=
  laneOp o 7 (some .bf2) (some .bf2) false true (fun a b _ => hadd2F o.rnd (hA o a) (hB o b)) s
def execHmul2 (o : Op3) (s : State) : Out :=
  laneOp o 7 (some .bf2) (some .bf2) false true (fun a b _ => hmul2F o.rnd (hA o a) (hB o b)) s
def execHfma2 (o : Op3) (s : State) : Out :=
  laneOp o 7 (some .bf2) (some .bf2) true true (fun a b c => hfma2F o.rnd (hA o a) (hB o b) (hC o c)) s

end Sys2Proof.Machine
end

