-- ==== Sys2Proof/Machine/Lanes.lean ====
section
/-!
DEFINITION. Conversion, moves, special registers, votes, reductions, scans, predicates, index registers and `rep` (R26 to R31, R106
to R117, R374).
-/
namespace Sys2Proof.Machine

/-! Conversion and moves -/

/-- How `cvt` reads an immediate: by its source type (R106). -/
def cvtImm (src : Nat) : Imm := if src == 0 then .sx else if src == 1 then .zx else if src == 2 then .f32 else .raw

def execCvt (o : Op3) (s : State) : Out :=
  laneOp o 9 (some (cvtImm o.xt.toNat)) none false true (fun a _ _ => cvtF o.xt.toNat o.typ o.rnd o.sat a) s

/-- What lane L of `qnt48` receives (R107). -/
def qntLane (q : List Int × Nat × Bool × Bool) (L : Nat) : W32 :=
  if L ≤ 11 then BitVec.ofNat 32 (((List.range 4).map fun k => ((q.1.getD (4 * L + k) 0) % 256).toNat * 2 ^ (8 * k)).sum)
  else if L == 12 then BitVec.ofNat 32 q.2.1 else 0

/-- STALLCHK of `qnt48` (R84): it reads its first register in every lane, active or not, and the next one in lanes 0 to 15 (R97,
R107). -/
def Issue.quantTrap (it : Issue) (a : Opnd) : Option TrapInfo :=
  if !it.wp.stchk || it.act == 0 || it.wp.sb == [] then none else
  match it.regNo 1 a 0 with
  | none => none
  | some n => ((List.range 32).findSome? fun S =>
      (if S < 16 then [n, n + 1] else [n]).find? fun m => 0 ≤ m && it.wp.early it.s.clock (.v m.toNat) S).map fun m =>
    { cls := .stallchk, x := m.toNat }

/-- `qnt48` (R107). -/
def execQnt48 (o : Op3) (s : State) : Out :=
  warpWord o.ctl (fun it =>
    match it.quantTrap o.a with
    | some t => it.trap t
    | none =>
      match it.regTrap [(0, o.d, 1), (1, o.a, 2)] with
      | some t => it.trap t
      | none =>
        let xs := (List.range 32).map (it.src 1 o.a .sx 0) ++ (List.range 16).map (it.src 1 o.a .sx 1)
        let q := q48 xs
        .next (it.finish it.s o.ctl
          { upd := it.putD o.d 0 (qntLane q), cls := 9, settles := it.keysD o.d 1,
            flags := if it.act == 0 then 0 else flagIf q.2.2.1 flFMT ||| flagIf q.2.2.2 flSAT })) s

/-- `mov` (R108). -/
def execMov (o : Op3) (s : State) : Out :=
  warpWord o.ctl (fun it =>
    match it.stallTrap [(1, o.a, 1)] [(0, o.d), (1, o.a)] o.a.predNo with
    | some t => it.trap t
    | none =>
      match it.regTrap [(0, o.d, 1), (1, o.a, 1)] with
      | some t => it.trap t
      | none =>
        let val (L : Nat) : W32 :=
          match o.a with
          | .pred _ => if it.pred 1 o.a L then 1 else 0
          | _ => it.src 1 o.a .sx 0 L
        let uni := o.d.uniformDest && o.a.uniformSrc
        match o.d with
        | .pred _ =>
          .next (it.finish it.s o.ctl
            { upd := fun w => w.putP o.d it.act (fun L => val L != 0), cls := 10, uniform := uni, keys := it.keysP o.d })
        | _ =>
          .next (it.finish it.s o.ctl { upd := it.putD o.d 0 val, cls := 10, uniform := uni, keys := it.keysD o.d 1 })) s

/-- `movi` (R108). -/
def execMovi (o : OpL) (s : State) : Out :=
  warpWord o.ctl (fun it =>
    match it.stallTrap [] [(0, o.d)] [] with
    | some t => it.trap t
    | none =>
      match it.regTrap [(0, o.d, 1)] with
      | some t => it.trap t
      | none =>
        .next (it.finish it.s o.ctl
          { upd := it.putD o.d 0 (fun _ => o.imm), cls := 10, uniform := o.d.uniformDest, keys := it.keysD o.d 1 })) s

/-! Special registers -/

def bit (p : Bool) (n : Nat) : Nat := if p then 2 ^ n else 0

/-- WSTAT of warp w (R31). -/
def Workgroup.wstat (g : Workgroup) (w : Nat) : Nat :=
  let x := g.warps.getD w default
  let slx := ((List.range 8).map fun n => bit (!sliceMeets x.live n) n).sum
  bit (g.spec w) 29 + bit (g.legOf w).isSome 28 + bit x.fullsv 27 + bit x.fbv 26 + bit x.unifx 25 + bit x.stchk 24
    + x.pcls * 2 ^ 22 + x.role * 2 ^ 20 + bit x.promo 19 + bit x.rep.active 15 + x.rep.left * 2 ^ 8 + slx

/-- CHARGE of a string (R348). -/
def State.chargeReg (s : State) (n : Nat) : Nat :=
  let r := (s.string n).charge
  bit (s.img.hmark ≤ r) 16 + r

/-- STRIMB of a string (R347). -/
def State.strimb (s : State) (n : Nat) : Nat :=
  let t := s.string n
  t.credit % 256 * 2 ^ 24 + t.node2.toNat * 2 ^ 16 + t.node1.toNat * 2 ^ 8 + t.node0.toNat

/-- Identifiers whose value is the same in every lane (R27). -/
def sregUniform (id : Nat) : Bool := id != 0 && id != 1 && id != 0x16

/-- A special register as lane L of a warp reads it, bits [31:0] (R26, R27). -/
def Issue.sreg (it : Issue) (id L : Nat) : W32 :=
  let g := it.wg
  let leg (f : Relay → Nat → Nat) : Nat := match g.legOf it.w with | some (r, p) => f r p | none => 0xFFFF_FFFF
  let n : Nat :=
    match id with
    | 0x00 => L
    | 0x01 => L / 4
    | 0x02 => it.w
    | 0x03 => g.hdr.warps
    | 0x04 => g.coords.1
    | 0x05 => g.coords.2.1
    | 0x06 => g.coords.2.2
    | 0x07 => g.extent.1
    | 0x08 => g.extent.2.1
    | 0x09 => g.extent.2.2
    | 0x0A => it.wp.role
    | 0x0B => it.s.timeOf g.vf
    | 0x0C => it.wp.tlatch.toNat
    | 0x0D => it.s.wtime g
    | 0x0E => it.s.clock
    | 0x0F => it.core
    | 0x10 => stringOf it.core
    | 0x11 => leg fun _ p => p
    | 0x12 => leg fun r p => r.done + p
    | 0x13 => leg fun _ p => p
    | 0x14 => it.wp.fstat.toNat
    | 0x15 => g.wstat it.w
    | 0x16 => ((it.wp.liveSlices).map (2 ^ ·)).sum * 256 + ((it.gang.slices).map (2 ^ ·)).sum
    | 0x17 => g.lid
    | 0x18 => g.arg.toNat
    | 0x19 => g.arg.toNat / 2 ^ 32
    | _ => 0
  BitVec.ofNat 32 n

/-- A special-register read (R26, R109); `clr` clears FSTAT (R29). An identifier of 0x80 up is PRIV, also where D fails a check (log 61). -/
def sreadOp (o : Op3) (clr : Bool) (s : State) : Out :=
  warpWord o.ctl (fun it =>
    let id := match o.a with | .imm v => v.toNat | _ => 0
    if 0x80 ≤ id && it.act != 0 then it.trap { cls := .priv }
    else
      match it.stallTrap [] [(0, o.d)] [] with
      | some t => it.trap t
      | none =>
        match it.regTrap [(0, o.d, 1)] with
        | some t => it.trap t
        | none =>
          let latch : W32 := BitVec.ofNat 32 (it.s.timeOf it.wg.vf / 2 ^ 32)
          let upd (w : Warp) : Warp :=
            let w := it.putD o.d 0 (it.sreg id) w
            if it.act == 0 then w
            else { w with fstat := if clr then 0 else w.fstat, tlatch := if id == 0x0B then latch else w.tlatch }
          .next (it.finish it.s o.ctl { upd := upd, cls := 10, uniform := sregUniform id && o.d.uniformDest,
                                        settles := it.keysD o.d 1 })) s

def execSread (o : Op3) (s : State) : Out := sreadOp o false s
def execSreadClr (o : Op3) (s : State) : Out := sreadOp o true s

/-! Votes, reductions, scans -/

/-- `vote` (R110). -/
def execVote (o : Op3) (s : State) : Out :=
  warpWord o.ctl (fun it =>
    match it.stallTrap [] [(0, o.d)] o.a.predNo with
    | some t => it.trap t
    | none =>
      match it.regTrap [(0, o.d, 1)] with
      | some t => it.trap t
      | none =>
        let q (L : Nat) : Bool := it.pred 1 o.a L != o.var.getLsbD 2
        let ls := lanesOf it.act
        let all := ls.all q
        let some' := ls.any q
        let upd (w : Warp) : Warp :=
          match o.var.toNat % 4 with
          | 0 => w.putP o.d it.act (fun _ => all)
          | 1 => w.putP o.d it.act (fun _ => some')
          | 2 => w.putP o.d it.act (fun _ => all || !some')
          | _ => it.putD o.d 0 (fun _ => maskOf fun L => laneBit it.act L && q L) w
        .next (it.finish it.s o.ctl { upd := upd, cls := 11, settles := it.keysD o.d 1 ++ it.keysP o.d })) s

/-- Identity of a reduction (R111): operation, TYPE. -/
def redIdent (op typ : Nat) : W32 :=
  match op with
  | 0 => if typ == 2 then 0x8000_0000 else 0
  | 1 => if typ == 2 then nanF32 else if typ == 0 then 0x7FFF_FFFF else 0xFFFF_FFFF
  | 2 => if typ == 2 then nanF32 else if typ == 0 then 0x8000_0000 else 0
  | 3 => 0xFFFF_FFFF
  | _ => 0

/-- One step of a reduction (R111). -/
def redStep (op typ : Nat) (a b : W32) : W32 × Byte :=
  match op with
  | 0 => if typ == 2 then addF32 0 a b else (a + b, 0)
  | 1 => if typ == 2 then (minF32 a b, 0) else (if intOf typ a ≤ intOf typ b then a else b, 0)
  | 2 => if typ == 2 then (maxF32 a b, 0) else (if intOf typ a ≤ intOf typ b then b else a, 0)
  | 3 => (a &&& b, 0)
  | 4 => (a ||| b, 0)
  | _ => (a ^^^ b, 0)

/-- One level of the pairwise tree of R57. -/
def redLevel (op typ : Nat) : List W32 → List W32 × Byte
  | a :: b :: r =>
    let z := redStep op typ a b
    let t := redLevel op typ r
    (z.1 :: t.1, z.2 ||| t.2)
  | r => (r, 0)

/-- The tree over 32 values, five levels (R57). -/
def redTree (op typ : Nat) (xs : List W32) : W32 × Byte :=
  let z := (List.range 5).foldl (fun (a : List W32 × Byte) _ =>
    let t := redLevel op typ a.1
    (t.1, a.2 ||| t.2)) (xs, 0)
  (z.1.headD 0, z.2)

/-- How a reduction reads its immediate. -/
def redImm (o : Op3) : Imm := if o.typ == 2 then .f32 else if o.typ == 1 then .zx else .sx

/-- The shared shape of `wred` and `wscan`. -/
def reduceOp (o : Op3) (f : Issue → (Nat → W32) → (Nat → W32) × Byte) (s : State) : Out :=
  warpWord o.ctl (fun it =>
    match it.stallTrap [(1, o.a, 1)] [(0, o.d), (1, o.a)] [] with
    | some t => it.trap t
    | none =>
      match it.regTrap [(0, o.d, 1), (1, o.a, 1)] with
      | some t => it.trap t
      | none =>
        let r := f it (fun L => it.src 1 o.a (redImm o) 0 L)
        .next (it.finish it.s o.ctl { upd := it.putD o.d 0 r.1, flags := if it.act == 0 then 0 else r.2, cls := 11,
                                      settles := it.keysD o.d 1 })) s

/-- `wred` (R111). -/
def execWred (o : Op3) (s : State) : Out :=
  reduceOp o (fun it x =>
    let z := redTree o.cpol o.typ ((List.range 32).map fun L => if laneBit it.act L then x L else redIdent o.cpol o.typ)
    (fun _ => z.1, z.2)) s

/-- What a scan starts from: the first active lane's value, a NaN as the canonical one, which R39 gives every result. -/
def scanFirst (typ : Nat) (x : W32) : W32 := if typ == 2 && (f32 x).isNan then nanF32 else x

/-- The scan over some lanes in ascending order: lane, inclusive value, exclusive value, flags so far (R112). Every step sets its
flags, that of the last lane too where the scan is exclusive (log 50). -/
def scanList (op typ : Nat) (x : Nat → W32) : List Nat → Option W32 → List (Nat × W32 × W32) × Byte
  | [], _ => ([], 0)
  | L :: r, acc =>
    let z : W32 × Byte := match acc with | none => (scanFirst typ (x L), 0) | some a => redStep op typ a (x L)
    let t := scanList op typ x r (some z.1)
    ((L, z.1, acc.getD (redIdent op typ)) :: t.1, z.2 ||| t.2)

/-- `wscan` (R112). -/
def execWscan (o : Op3) (s : State) : Out :=
  reduceOp o (fun it x =>
    let z := scanList o.cpol o.typ x (lanesOf it.act) none
    let val (L : Nat) : W32 :=
      match z.1.find? (fun e => e.1 == L) with
      | some e => if o.var.getLsbD 7 then e.2.2 else e.2.1
      | none => 0
    (val, z.2)) s

/-! Predicates and index registers -/

/-- `plop` (R113). -/
def execPlop (o : Op3) (s : State) : Out :=
  warpWord o.ctl (fun it =>
    match it.stallTrap [] [] (o.a.predNo ++ o.b.predNo) with
    | some t => it.trap t
    | none =>
      let f (L : Nat) : Bool := o.var.getLsbD ((if it.pred 1 o.a L then 2 else 0) + (if it.pred 2 o.b L then 1 else 0))
      .next (it.finish it.s o.ctl
        { upd := fun w => w.putP o.d it.act f, cls := 10, uniform := o.a == .zero && o.b == .zero, keys := it.keysP o.d })) s

/-- Number of a class 3 operand. -/
def xNo : Opnd → Nat
  | .xreg n => n.toNat
  | _ => 0

/-- Writes an index register. -/
def Warp.setX (w : Warp) (n : Nat) (act : W32) (val : Nat → W16) : Warp :=
  { w with x := w.x.modify n fun old => (List.range 32).map fun L => if laneBit act L then val L else old.getD L 0 }

/-- The shared shape of `xset` and `xadd` (R114). -/
def indexOp (o : Op3) (imm : Imm) (add : Bool) (s : State) : Out :=
  warpWord o.ctl (fun it =>
    match it.stallTrap [(1, o.a, 1)] [(1, o.a)] [] (if add then [xNo o.d] else []) with
    | some t => it.trap t
    | none =>
      match it.regTrap [(1, o.a, 1)] with
      | some t => it.trap t
      | none =>
        let n := xNo o.d
        let val (L : Nat) : W16 :=
          (it.src 1 o.a imm 0 L).setWidth 16 + (if add then BitVec.ofNat 16 (it.index 9 n L) else 0)
        .next (it.finish it.s o.ctl
          { upd := fun w => w.setX n it.act val, cls := 10, keys := it.keyAct (.x n) })) s

def execXset (o : Op3) (s : State) : Out := indexOp o .zx false s
def execXadd (o : Op3) (s : State) : Out := indexOp o .sx true s

/-- `xwin` (R115). -/
def execXwin (o : Op3) (s : State) : Out :=
  warpWord o.ctl (fun it =>
    let n := xNo o.d
    let v (p : Opnd) : Nat := match p with | .imm v => v.toNat | _ => 0
    .next (it.finish it.s o.ctl
      { upd := fun w => if it.act == 0 then w else { w with win := w.win.set n (v o.a, v o.b) }, cls := 10,
        keys := if it.act == 0 then [] else [allLanes (.win n)] })) s

/-! Repetition -/

/-- `rep` (R116, R117): a count of 0 skips the subject. -/
def execRep (o : Op3) (s : State) : Out :=
  warpWord o.ctl (fun it =>
    let n := match o.a with | .imm v => v.toNat | _ => 0
    let st : Int := match o.b with | .imm v => v.toInt | _ => 0
    if n == 0 then
      .next (it.finish it.s o.ctl { cls := 0, next := some fun _ => it.gang.pc + 24 })
    else
      let r : Rep := { active := true, left := n, count := n, stride := st, mask := o.var.setWidth 3, leader := it.gang.leader }
      .next (it.finish it.s o.ctl { upd := fun w => { w with rep := r }, cls := 0 })) s

end Sys2Proof.Machine
end

