-- ==== Sys2Proof/Machine/Context.lean ====
section
/-!
DEFINITION. Saving and restoring a workgroup as a record of its image (R286, R289 to R291, R303, R308, R326, R332 to R336, R338).
-/
namespace Sys2Proof.Machine

/-! Where a record lies -/

/-- The physical address of byte `off` of a record, through some translation. -/
abbrev RecMap := Nat → Option Nat

/-- Writes a number at an offset of a record. -/
def State.recWrite (s : State) (m : RecMap) (off n v : Nat) : State :=
  match m off with
  | some pa => s.writeL2Nat pa n v
  | none => s

def State.recRead (s : State) (m : RecMap) (off n : Nat) : Nat :=
  match m off with
  | some pa => s.mem.nat pa n
  | none => 0

/-- The map of workgroup c's record through the function's table. -/
def State.recMapOf (s : State) (l : Launch) (c : Nat) : RecMap := fun off =>
  match s.devXlate l.vf ((l.image.toNat + l.recOff s c + off) % 2 ^ 64) .write with
  | .ok pa => some pa
  | .error _ => none

/-- Offsets of the parts of a record (R289). -/
def recWarp (w : Nat) : Nat := 4096 + 1024 * w
def recRegs (h : KHeader) : Nat := 4096 + 1024 * h.warps
def recWindow (h : KHeader) : Nat := recRegs h + 1024 * h.pool
def recTile (h : KHeader) (t : Nat) : Nat := recWindow h + winBytes h.scratch + 24832 * t
def recBytes (h : KHeader) : Nat := recTile h h.tiles

/-! Event records (R177) -/

/-- The reporting command of a batch: the first of nonzero status, else the last. -/
def reporting (cs : List Cmd) : Option Cmd :=
  match cs.find? (fun q => q.status != 0) with
  | some q => some q
  | none => cs.getLast?

/-- The record that finished commands report (R177). -/
def recordOf (n : Nat) (cs : List Cmd) : W64 :=
  match reporting cs with
  | some q => BitVec.ofNat 64 (q.data / 65536 * 65536 + q.status * 256 + n * 16 + q.engine)
  | none => BitVec.ofNat 64 (n * 16 + 15)

/-- A command as a saved partial record gives it back. -/
def cmdOf (r : Nat) (p : Pend) : Cmd := { engine := r % 16, status := r / 256 % 256, data := r / 65536 * 65536, pend := p }

/-! Saving -/

/-- The warp is a leg that is saved at its `rjoin`: one at position 1 or higher, or leg 0 before its body has begun; where leg 0 has
been carried forward or runs its body, its place is saved (R271, R277). -/
def Workgroup.atJoin (g : Workgroup) (w : Nat) : Bool :=
  match g.legOf w with
  | some (r, p) => !(p == 0 && ((r.leg 0).carried || r.bodies))
  | none => false

/-- The warp can be saved at its flashback point (R334). -/
def Workgroup.flashSaved (g : Workgroup) (full : Bool) (w : Nat) : Bool :=
  let x := g.warps.getD w default
  !full && x.fbv && !x.fullsv && !g.atJoin w

/-- Bit n of the LIVE field of flashback entry k (R333). -/
def State.liveBit (s : State) (g : Workgroup) (k n : Nat) : Bool :=
  s.dev g.vf (g.kimg.toNat + g.hdr.fbtab + 64 * k + 32 + n / 8) 1 / 2 ^ (n % 8) % 2 == 1

/-- Leaders packed as in a record (R290). -/
def packLeaders (ls : List Nat) : Nat := ((List.range 8).map fun n => ls.getD n 0 * 2 ^ (3 * n)).sum

/-- The warp as a save finds it (R277). -/
def Workgroup.asSaved (g : Workgroup) (w : Nat) : Warp :=
  let x := g.warps.getD w default
  match g.legOf w with
  | some (r, _) =>
    if g.atJoin w then { (x.setPcs x.live (r.joins.getD w 0)).meeting with rep := { x.rep with active := false, left := 0 } } else x
  | none => x

/-- Writes a warp block and the warp's registers (R290, R335, R336). -/
def State.saveWarp (s : State) (m : RecMap) (g : Workgroup) (full : Bool) (w : Nat) : State :=
  let x := g.asSaved w
  let b := recWarp w
  let fl := g.flashSaved full w
  let low := x.liveSlices.headD 0
  let s := (List.range 32).foldl (fun s L =>
    s.recWrite m (b + 8 * L) 8 (if fl && laneBit x.live L then x.fbpc else x.pcOf L).toNat) s
  let s := s.recWrite m (b + 256) 4 x.exited.toNat
  let ls := if fl then (List.range 8).map fun n => if sliceMeets x.live n then low else n else x.leaders
  let s := s.recWrite m (b + 260) 4 (packLeaders ls + (if fl then low else x.turn) * 2 ^ 24)
  let s := s.recWrite m (b + 264) 4 (x.granule * 2 ^ 16 + x.allot * 256 + x.role)
  let s := s.recWrite m (b + 268) 4 x.fstat.toNat
  let ws := ({ g with warps := g.warps.set w x } : Workgroup).wstat w
  let s := s.recWrite m (b + 272) 4 (if fl then ws / 2 ^ 28 * 2 ^ 28 + 2 ^ 26 + ws % 2 ^ 26 / 2 ^ 16 * 2 ^ 16 + ws % 256 else ws)
  let s := s.recWrite m (b + 276) 4 x.tlatch.toNat
  let rep := if fl || !x.rep.active then 0
    else x.rep.mask.toNat * 2 ^ 24 + (x.rep.stride % 512).toNat * 256 + x.rep.count
  let s := s.recWrite m (b + 280) 4 rep
  let s := s.recWrite m (b + 284) 4 (bit x.fbv 8 + x.fbnum)
  let s := s.recWrite m (b + 288) 8 x.fbpc.toNat
  let s := if fl then s else
    let s := (List.range 8).foldl (fun s n =>
      let win := x.win.getD n (0, 0)
      s.recWrite m (b + 296 + 4 * n) 4 (win.2 * 2 ^ 16 + win.1)) s
    let s := (List.range 7).foldl (fun s n => s.recWrite m (b + 328 + 4 * n) 4 (x.p.getD n 0).toNat) s
    (List.range 256).foldl (fun s i => s.recWrite m (b + 384 + 2 * i) 2 ((x.x.getD (i / 32) []).getD (i % 32) 0).toNat) s
  if x.gone then s else
  (List.range x.count).foldl (fun s n =>
    if fl && !s.liveBit g x.fbnum n then s
    else (List.range 32).foldl (fun s L =>
      s.recWrite m (recRegs g.hdr + 1024 * x.granule + 128 * n + 4 * L) 4 ((x.v.getD n []).getD L 0).toNat) s) s

/-- Agents that wait at barrier b and will arrive again after the restore (log 21). -/
def Workgroup.waiters (g : Workgroup) (b : Nat) : Nat :=
  (g.warps.filter (fun w => w.block == .bar b)).length + (if g.drv.block == .bar b then 1 else 0)

/-- The LAUNCHID of the launch of an image that has not completed; 0 before its entry has been claimed (R297; log 26). -/
def State.lidOf (s : State) (f image : Nat) : Nat :=
  ((s.launches.find? fun l => l.vf == f && l.image.toNat == image && l.endedAs == none).map (·.lid)).getD
    (((s.admits.find? fun a => a.vf == f && a.queue == 16 && a.entry.image == image).map (·.lid)).getD 0)

/-- The children that a batch awaits, by image. -/
def Batch.children (b : Batch) : List Nat := b.cmds.filterMap fun q => match q.pend with | .child a => some a | _ => none

/-- The child that the BATCH entry of a saved batch names: the one that the record awaits, else the first (R303). -/
def Batch.namedChild (b : Batch) (child : Option Nat) : Option Nat :=
  match child with
  | some a => if b.children.contains a then some a else b.children.head?
  | none => b.children.head?

/-- Writes the fixed part (R289); `child` is the image of the child that a yielding wait awaits (R303). RUN says that a relay has been issued;
INRLY of the warp blocks says whether it has begun. A committed mark of leg 0, which always commits, is saved in EXIT (log 51). -/
def State.saveFixed (s : State) (m : RecMap) (g : Workgroup) (st : Nat) (child : Option Nat) : State :=
  let s := s.recWrite m 0 8 (g.wgnum * 2 ^ 32 + st)
  let s := s.recWrite m 8 4 (g.free * 2 ^ 16 + g.pool)
  let s := s.recWrite m 16 4 ((child.map (s.lidOf g.vf)).getD 0)
  let s := s.recWrite m 64 8 g.drv.pc.toNat
  let s := (List.range 31).foldl (fun s i => s.recWrite m (72 + 8 * i) 8 (g.drv.d.getD (i + 1) 0).toNat) s
  let s := (List.range 64).foldl (fun s i => s.recWrite m (320 + 8 * i) 8 (g.evq.getD i 0).toNat) s
  let s := s.recWrite m 832 2 (g.evq.length * 256)
  let s := s.recWrite m 840 1 (bit g.drv.priv 0 + bit g.drv.ended 1)
  let s := s.recWrite m 848 8 (recordOf 0 (g.open_.filter (fun q => q.pend == .none))).toNat
  let s := s.recWrite m 856 4 g.open_.length
  let s := (List.range 16).foldl (fun s k =>
    let b := g.batches.getD k { state := .idle, cmds := [] }
    let lid := ((b.namedChild child).map (s.lidOf g.vf)).getD 0
    let e := match b.state with | .idle => 0 | .complete => 1 | .inflight => 2
    let s := s.recWrite m (864 + 16 * k) 8 (recordOf k (b.cmds.filter (fun q => q.pend == .none))).toNat
    s.recWrite m (872 + 16 * k) 8 (lid * 2 ^ 32 + e)) s
  let s := (List.range g.dq.length).foldl (fun s i =>
    s.recWrite m (1120 + 8 * ((g.dqFirst + i) % 16)) 8 (g.dq.getD i 0).toNat) s
  let s := s.recWrite m 1248 1 (g.dqTail % 256)
  let s := (List.range g.warps.length).foldl (fun s w => s.recWrite m (1249 + w) 1 ((g.warps.getD w default).head % 256)) s
  let s := (List.range 16).foldl (fun s b =>
    let x := g.bars.getD b default
    s.recWrite m (1280 + 4 * b) 4 (bit x.phase 16 + (x.arrivals - g.waiters b) * 256 + x.expected)) s
  let s := (List.range g.tiles.length).foldl (fun s t =>
    let x := g.tiles.getD t default
    s.recWrite m (1344 + t) 1 (bit x.sat 1 + bit x.f32 0)) s
  match g.relay with
  | some r =>
    let s := s.recWrite m 1376 8 r.word.toNat
    let s := s.recWrite m 1384 8 r.body.toNat
    let s := s.recWrite m 1392 8 r.guess.toNat
    let s := s.recWrite m 1400 8 (r.done * 2 ^ 32 + r.base * 256 + bit (r.exit || (r.begun && (r.leg 0).exitMark)) 1 + 1)
    (List.range r.rcarry.length).foldl (fun s k =>
      (List.range 32).foldl (fun s L => s.recWrite m (1440 + 128 * k + 4 * L) 4 ((r.rcarry.getD k []).getD L 0).toNat) s) s
  | none => s.recWrite m 1400 8 (g.lastDone * 2 ^ 32)

/-- A cell as 8 bytes: an A36 cell sign-extended (R168, R289). -/
def cellWord (f32 : Bool) (x : BitVec 36) : Nat := if f32 then x.toNat % 2 ^ 32 else (x.signExtend 64).toNat

/-- Writes the window and the tiles (R289); a word with an uncorrectable error is met, and poisons its line (R254, R352). -/
def State.saveStore (s : State) (m : RecMap) (c : Nat) (g : Workgroup) : State :=
  let n := winBytes g.hdr.scratch / 8
  let s := (List.range n).foldl (fun s i =>
    let s' := s.recWrite m (recWindow g.hdr + 8 * i) 8 ((s.core c).scratch.nat (g.winBase + 8 * i) 8)
    if (s.core c).badWords.contains (g.winBase / 8 + i) then
      let s' := s'.sramError c (g.winBase + 8 * i)
      match m (recWindow g.hdr + 8 * i) with
      | some pa => s'.setPoison (lineOf pa) true
      | none => s'
    else s') s
  (List.range g.tiles.length).foldl (fun s t =>
    let x := g.tiles.getD t default
    let s := (List.range 3072).foldl (fun s i =>
      s.recWrite m (recTile g.hdr t + 8 * i) 8 (cellWord x.f32 ((x.cells.getD (i / 96) []).getD (i % 96) 0))) s
    (List.range 32).foldl (fun s i =>
      let r := x.rows.getD i (0, 0)
      s.recWrite m (recTile g.hdr t + 24576 + 8 * i) 8 (r.2.toNat * 2 ^ 32 + r.1.toNat)) s) s

/-- The parts of a record that a save writes without a gap, as offset and bytes (R289, R290). -/
def State.recParts (s : State) (g : Workgroup) (full : Bool) : List (Nat × Nat) :=
  let h := g.hdr
  [(64, 768), (864, 256), (1280, 64), (recWindow h, winBytes h.scratch)]
    ++ (if g.dq.length == 16 then [(1120, 128)] else [])
    ++ (match g.relay with | some r => [(1440, 128 * r.rcarry.length)] | none => [])
    ++ (List.range g.tiles.length).map (fun t => (recTile h t, 24832))
    ++ (List.range g.warps.length).flatMap fun w =>
      let x := g.asSaved w
      let fl := g.flashSaved full w
      (if fl then [(recWarp w, 296)] else [(recWarp w, 356), (recWarp w + 384, 512)])
        ++ (if x.gone then [] else (List.range x.count).filterMap fun n =>
          if fl && !s.liveBit g x.fbnum n then none else some (recRegs h + 1024 * x.granule + 128 * n, 128))

/-- The lines that lie whole in a part of a record lose their poison (R251). -/
def State.recWhole (s : State) (m : RecMap) (p : Nat × Nat) : State :=
  match m p.1 with
  | none => s
  | some pa =>
    let first := p.1 + (64 - pa % 64) % 64
    (List.range (p.2 / 64)).foldl (fun s i =>
      if first + 64 * i + 64 ≤ p.1 + p.2 then
        match m (first + 64 * i) with
        | some pa => s.setPoison (lineOf pa) false
        | none => s
      else s) s

/-- A save rewrites whole lines of a record. -/
def State.recFresh (s : State) (m : RecMap) (g : Workgroup) (full : Bool) : State :=
  if s.poison.isEmpty then s else (s.recParts g full).foldl (fun s p => s.recWhole m p) s

/-- The capture map holds exactly the captures of the workgroup (R326). A kernel that has captured nothing may have reserved no map;
then none is written. -/
def State.saveCaptures (s : State) (l : Launch) (g : Workgroup) : State :=
  let old := (l.savedCaptures s g.wgnum).filter fun q => !(g.captures.map (·.1)).contains q.1
  let s := s.modLaunch l.vf l.lid fun x =>
    { x with mapless := if g.captures.isEmpty then g.wgnum :: x.mapless.filter (· != g.wgnum) else x.mapless.filter (· != g.wgnum) }
  let s := if g.captures.isEmpty then s else old.foldl (fun s q => l.setMapBits s g.wgnum q.1 0) s
  g.captures.foldl (fun s q => l.setMapBits s g.wgnum q.1 (if q.2 then 3 else 1)) s

/-- STATE of a saved record (R334): 2 when every warp is fully saved, else 1. -/
def Workgroup.savedState (g : Workgroup) (full : Bool) : Nat :=
  if (List.range g.warps.length).any (g.flashSaved full) then 1 else 2

/-- No workgroup of the launch of a child image has started; a CORES child has not been admitted (R303). -/
def State.childWaits (s : State) (f image : Nat) : Bool :=
  match s.launches.find? fun l => l.vf == f && l.image.toNat == image && l.endedAs == none with
  | none => true
  | some l => l.hdrRd s 104 1 / 2 % 2 == 0 && !l.begun

/-- Some command has not finished, on a core that has started so many passes: it waits for something outside the engines, or a pass of
it has not run (R177, R255). -/
def cmdsPending (ran : Nat) (cs : List Cmd) : Bool := cs.any fun q => q.pend != .none || ran < q.passAt

/-- A command keeps a save waiting, on a core that has started so many passes: it still has work of its own. A relay is cut at its
round by a pre-emption (R277), and a yield waits for it. A yield does not wait for a command that belongs to a child launch; any other
save does (R303, R304). -/
def Cmd.keepsSave (ran : Nat) (yields : Bool) (q : Cmd) : Bool :=
  match q.pend with
  | .none => ran < q.passAt
  | .relay => yields
  | .child _ => !yields
  | .peer _ => true
  | .retry _ => true

/-- A save waits: for a closed batch that has not completed, unless only what a save passes over holds it, and for the open batch's
commands likewise (R303, R304, R336; log 22). -/
def Workgroup.saveWaits (g : Workgroup) (ran : Nat) (yields : Bool) : Bool :=
  g.open_.any (Cmd.keepsSave ran yields) ||
    g.batches.any fun b => b.state == .inflight && (b.cmds.any (Cmd.keepsSave ran yields) || !cmdsPending ran b.cmds)

/-- The children that a record does not name: those without a LAUNCHID, all but one of a batch, and those of the open batch, which
counts as batch 16 here (R303; log 26). -/
def State.awaits (s : State) (g : Workgroup) (rec_ : Nat) (child : Option Nat) : List Awaited :=
  (List.range 17).flatMap fun k =>
    let b : Batch := if k == 16 then { state := .inflight, cmds := g.open_ } else g.batches.getD k { state := .idle, cmds := [] }
    b.children.filterMap fun a =>
      let named := k != 16 && b.namedChild child == some a
      if named && s.lidOf g.vf a != 0 then none
      else some { vf := g.vf, rec_, batch := k, image := a, named, wait := named && child == some a, result := none }

/-- The window holds a word with an uncorrectable error (R254). -/
def Core.badWindow (co : Core) (g : Workgroup) : Bool :=
  co.badWords.any fun w => g.winBase ≤ 8 * w && 8 * w < g.winBase + winBytes g.hdr.scratch

/-- Remembers whether the saved record of a workgroup holds a word that its save has met with an uncorrectable error (R254). -/
def State.noteSave (s : State) (g : Workgroup) (bad : Bool) : State :=
  s.modLaunch g.vf g.lid fun l =>
    { l with badSaves := if bad then g.wgnum :: l.badSaves.filter (· != g.wgnum) else l.badSaves.filter (· != g.wgnum) }

/-- Saves workgroup g of slot k into its record, and frees its registers, window and tiles; objects stay (R200, R234, R334). Speculative
legs are discarded, those of a commit that waits under RETRY too (R277; log 51). -/
def State.saveWg (s : State) (m : RecMap) (c k : Nat) (g : Workgroup) (full : Bool) (child : Option Nat) : State :=
  let s := (s.noteSave g ((s.core c).badWindow g)).recFresh m g full
  let s := s.saveFixed m g (match child with | some _ => 6 | none => g.savedState full) child
  let s := (List.range g.warps.length).foldl (fun s w => s.saveWarp m g full w) s
  let s := s.saveStore m c g
  let s := match s.launchOf g with
    | some l =>
      let a := l.image.toNat + l.recOff s g.wgnum
      let s := { s with awaited := s.awaits g a child ++ s.awaited.filter fun (x : Awaited) => !(x.vf == g.vf && x.rec_ == a) }
      l.wr (s.saveCaptures l g) 6 1 1
    | none => s
  let s := match g.relay with
    | some r => if r.begun then s.dropLegs c k g.vf r ((List.range r.width).drop 1) else s
    | none => s
  (s.releaseDev c 0xFFFF).setSlot c k none

/-! Restoring -/

/-- Sign of a 9-bit stride. -/
def stride9 (x : Nat) : Int := if 256 ≤ x then (x : Int) - 512 else x

/-- The block of warp w is that of a flashback save: FBV without FULLSV, and every resume PC at FBPC; the block of a leg that was saved
at its `rjoin` has other resume PCs, whatever its FBV and FULLSV say (R335; log 51). -/
def State.blockFlash (s : State) (m : RecMap) (w : Nat) : Bool :=
  let rd (off n : Nat) : Nat := s.recRead m (recWarp w + off) n
  let ws := rd 272 4
  ws / 2 ^ 26 % 2 == 1 && ws / 2 ^ 27 % 2 == 0 && ws / 2 ^ 29 % 2 == 0
    && (List.range 32).all fun L => rd 256 4 / 2 ^ L % 2 == 1 || rd (8 * L) 8 == rd 288 8

/-- The warp that a warp block describes (R290, R335, R336). -/
def State.loadWarp (s : State) (m : RecMap) (g : Workgroup) (wslot w : Nat) (flash : Bool) : Warp :=
  let b := recWarp w
  let rd (off n : Nat) : Nat := s.recRead m (b + off) n
  let role := rd 264 1 % 4
  let r := g.hdr.roles.getD role default
  let ws := rd 272 4
  let exited : W32 := BitVec.ofNat 32 (rd 256 4)
  let fbnum := rd 284 1
  let fl := flash && s.blockFlash m w
  let recipe := g.kimg.toNat + g.hdr.wcode + s.dev g.vf (g.kimg.toNat + g.hdr.fbtab + 64 * fbnum) 8
  let gr := rd 264 4 / 2 ^ 16
  let reg (n L : Nat) : W32 := BitVec.ofNat 32 (s.recRead m (recRegs g.hdr + 1024 * gr + 128 * n + 4 * L) 4)
  let gone := exited == BitVec.allOnes 32
  let v := (List.range r.count).map fun n =>
    if gone || (fl && !s.liveBit g fbnum n) then zeroLanes else (List.range 32).map (reg n)
  let rp := rd 280 4
  { v := v
    x := (List.range 8).map fun n => (List.range 32).map fun L => if fl then 0 else BitVec.ofNat 16 (rd (384 + 64 * n + 2 * L) 2)
    p := (List.range 7).map fun n => if fl then 0 else BitVec.ofNat 32 (rd (328 + 4 * n) 4)
    win := (List.range 8).map fun n => if fl then (0, r.count) else (rd (296 + 4 * n) 1, rd (298 + 4 * n) 2 % 512)
    pcs := (List.range 32).map fun L =>
      BitVec.ofNat 64 (if fl && laneBit (~~~exited) L then recipe else rd (8 * L) 8)
    exited := exited
    leaders := (List.range 8).map fun n => rd 260 4 / 2 ^ (3 * n) % 8
    turn := rd 263 1 % 8
    role := role, count := r.count, allot := rd 265 1, granule := gr
    fstat := BitVec.ofNat 8 (rd 268 1)
    fullsv := ws / 2 ^ 27 % 2 == 1, fbv := ws / 2 ^ 26 % 2 == 1, unifx := r.unifx, stchk := r.stchk
    pcls := ws / 2 ^ 22 % 4, promo := ws / 2 ^ 19 % 2 == 1
    rep := { active := ws / 2 ^ 15 % 2 == 1, left := ws / 256 % 128, count := rp % 128, stride := stride9 (rp / 256 % 512)
             mask := BitVec.ofNat 3 (rp / 2 ^ 24), leader := 0 }
    tlatch := BitVec.ofNat 32 (rd 276 4), fbnum := fbnum, fbpc := BitVec.ofNat 64 (rd 288 8)
    meet := 0, hitch := 0, block := .none, waits := []
    head := 0, rfirsts := 0, rfmask := 0, passed := false, wslot := wslot
    readyAt := s.clock, lastAt := s.clock, readySince := s.clock, endsAt := s.clock, sb := [] }

/-- The gang that holds a restored `rep` (R336): its last issue has left the turn one past its leader (R210), and every other gang
has waited since. Where no gang is led from there, the one that R210 picks next has it (log 51). -/
def Warp.fixRep (w : Warp) : Warp :=
  if !w.rep.active then w else
    let l := (w.turn + 7) % 8
    if w.gang l != [] then { w with rep := { w.rep with leader := l } }
    else
      match { w with rep := { w.rep with active := false } }.pick with
      | some g => { w with rep := { w.rep with leader := g.leader } }
      | none => w

/-- A head or tail position as near below a tail as its byte says. -/
def headFrom (tail b : Nat) : Nat := tail - (tail % 256 + 256 - b) % 256

/-- The byte at a PC of a function is the opcode of `rjoin`. -/
def State.atRjoin (s : State) (f : Nat) (pc : W64) : Bool := s.dev f pc.toNat 1 == 0x6F

/-- The relay that a record holds (R266, R277): one that has begun runs its round again from the guesses, and leg 0 resumes where it
was, or starts the body where it waits in `rjoin`. INRLY of warp 0 says that it has begun. The record has no `rjoin` PC of a leg 0
within its body: that of position 1 stands for it (log 51). -/
def State.loadRelay (s : State) (m : RecMap) (f : Nat) (ws : List Warp) : Option Relay :=
  let w := s.recRead m 1400 8
  if w % 2 == 0 then none else
    let r : Relay :=
      { word := BitVec.ofNat 64 (s.recRead m 1376 8), body := BitVec.ofNat 64 (s.recRead m 1384 8),
        guess := BitVec.ofNat 64 (s.recRead m 1392 8), base := w / 256 % 8, done := w / 2 ^ 32,
        rcarry := [], exit := false, begun := s.recRead m (recWarp 0 + 272) 4 / 2 ^ 28 % 2 == 1, bodies := false, legs := [],
        appends := [], undo := [], joins := [] }
    let r := { r with
      rcarry := (List.range r.ccnt).map fun k => (List.range 32).map fun L =>
        BitVec.ofNat 32 (s.recRead m (1440 + 128 * k + 4 * L) 4)
      legs := { freshLeg with
                state := .stopped, carried := !s.atRjoin f (ws.getD r.base default).nextPc, exitMark := w / 2 % 2 == 1 }
              :: List.replicate (r.width - 1) freshLeg }
    let other := (ws.getD ((r.base + 1) % r.width) default).nextPc
    let joins := (List.range r.width).map fun i =>
      let pc := (ws.getD i default).nextPc
      if r.posOf i == 0 && (r.leg 0).carried then other else pc
    some (if r.begun then { r with joins := joins } else { r with rcarry := [], legs := [] })

/-- The workgroup that a record describes, to be placed in slot k of core c. -/
def State.loadWg (s : State) (m : RecMap) (c : Nat) (l : Launch) (h : KHeader) (wgnum winBase : Nat) : Workgroup :=
  let rd := s.recRead m
  let base := s.freshWg c l h (l.rd s 56 8) wgnum winBase
  let flash := rd 0 1 == 1 || rd 0 1 == 6
  let slots := (s.core c).freeWarpSlots
  let tail := 256 + rd 1248 1
  let ws := (List.range h.warps).map fun w =>
    let x := s.loadWarp m base (slots.getD w 0) w flash
    { x.fixRep with head := headFrom tail (rd (1249 + w) 1) }
  let least := ((ws.filter (fun w => !w.gone)).map (·.head)).foldl min tail
  let dq := (List.range (tail - least)).map fun i => BitVec.ofNat 64 (rd (1120 + 8 * ((least + i) % 16)) 8)
  let relay := s.loadRelay m l.vf ws
  let rec_ := l.image.toNat + l.recOff s wgnum
  let held (k : Nat) : List Awaited := s.awaited.filter fun a => a.vf == l.vf && a.rec_ == rec_ && a.batch == k
  let again (a : Awaited) : Cmd :=
    match a.result with
    | some r => { engine := 7, status := r.2, data := r.1 * 2 ^ 16, pend := .none }
    | none => { engine := 7, status := 0, data := 0, pend := .child a.image }
  let batch (k : Nat) : Batch :=
    let e := rd (872 + 16 * k) 8
    let r := rd (864 + 16 * k) 8
    let done := if r % 16 == 15 then [] else [cmdOf r .none]
    match e % 4 with
    | 0 => { state := .idle, cmds := [] }
    | 1 => { state := .complete, cmds := done }
    | _ =>
      let lid := e / 2 ^ 32
      let wait : Cmd :=
        if lid == 0 then
          match (held k).find? (·.named) with
          | some a => again a
          | none => { engine := 6, status := 0, data := 0, pend := if relay.isSome then .relay else .none }
        else match s.launch? l.vf lid, s.admits.find? fun a => a.vf == l.vf && a.lid == lid with
          | none, some a => { engine := 7, status := 0, data := lid * 2 ^ 16, pend := .child a.entry.image }
          | none, none => { engine := 7, status := 7, data := lid * 2 ^ 16, pend := .none }
          | some ch, _ =>
            match ch.endedAs with
            | some st => { engine := 7, status := st, data := lid * 2 ^ 16, pend := .none }
            | none => { engine := 7, status := 0, data := lid * 2 ^ 16, pend := .child ch.image.toNat }
      { state := .inflight, cmds := done ++ wait :: ((held k).filter fun a => !a.named).map again }
  let batches := (List.range 16).map batch
  let openR := relay.isSome && !batches.any fun b => b.cmds.any fun q => q.pend == .relay
  let open_ := List.replicate (rd 856 4 - ((if openR then 1 else 0) + (held 16).length)) (cmdOf (rd 848 8) .none)
    ++ (if openR then [{ engine := 6, status := 0, data := 0, pend := .relay }] else []) ++ (held 16).map again
  let drv := { base.drv with
    pc := BitVec.ofNat 64 (rd 64 8), priv := rd 840 1 % 2 == 1, ended := rd 840 1 / 2 % 2 == 1,
    d := 0 :: (List.range 31).map fun i => BitVec.ofNat 64 (rd (72 + 8 * i) 8) }
  let tile (t : Nat) : Tile :=
    { cells := (List.range 32).map fun i => (List.range 96).map fun j =>
        BitVec.ofNat 36 (rd (recTile h t + 8 * (96 * i + j)) 8)
      rows := (List.range 32).map fun i =>
        (BitVec.ofNat 32 (rd (recTile h t + 24576 + 8 * i) 4), BitVec.ofNat 32 (rd (recTile h t + 24580 + 8 * i) 4))
      f32 := rd (1344 + t) 1 % 2 == 1, sat := rd (1344 + t) 1 / 2 % 2 == 1 }
  let bar (b : Nat) : Barrier :=
    let w := rd (1280 + 4 * b) 4
    let x := freshBarrier h b
    let left := ((List.range h.warps).filter fun i => x.members.getLsbD i && (ws.getD i default).gone).length
      + (if x.members.getLsbD 16 && rd 840 1 / 2 % 2 == 1 then 1 else 0)
    { x with phase := w / 2 ^ 16 % 2 == 1, arrivals := w / 256 % 32, expected := w % 32, leaving := w % 32 + left - x.expected }
  let g := { base with
    warps := ws, drv := drv, free := rd 10 2, open_ := open_, batches := batches,
    hazards := open_.map fun _ => { batch := 16 }, dq := dq, dqTail := tail, bars := (List.range 16).map bar,
    evq := (List.range (rd 833 1)).map fun i => BitVec.ofNat 64 (rd (320 + 8 * ((rd 832 1 + i) % 64)) 8),
    tiles := (List.range h.tiles).map tile, captures := l.savedCaptures s wgnum, relay := none,
    lastDone := if relay.isSome then 0 else rd 1404 4 }
  match relay with
  | some r =>
    if r.begun then
      let hold (x : Warp) : Warp := if (r.leg 0).carried then { x with block := .stopped } else { x with block := .rjoin }
      ({ g with warps := g.warps.modify r.base hold } : Workgroup).startRound s.clock r
    else { g with relay := some r }
  | none => g

/-- The RELAY words of a record are in range: of a `relay` word as R198 says, and a position and a count of it (R289). -/
def relayWordsOk (h : KHeader) (word body guess w : Nat) : Bool :=
  let width := word % 16
  let ccnt := bitsOf word 7 4
  w % 2 == 0 || (h.relay && bitsOf word 31 16 == 0 && 2 ≤ width && width ≤ 8 && width ≤ h.warps && 1 ≤ ccnt && ccnt ≤ 8
    && bitsOf word 15 8 + ccnt ≤ 256 && body % 4 == 0 && guess % 4 == 0 && bitsOf w 10 8 < width && w / 2 ^ 32 ≤ word / 2 ^ 32
    && word / 2 ^ 32 != 0)

/-- The fixed part of a record lies in its ranges (R289). -/
def State.fixedOk (s : State) (m : RecMap) (h : KHeader) (wgnum : Nat) : Bool :=
  let rd := s.recRead m
  let st := rd 0 1
  (st == 1 || st == 2 || st == 6) && rd 4 4 == wgnum && rd 8 2 == h.pool && rd 10 2 ≤ h.pool && rd 832 1 < 64 && rd 833 1 ≤ 64
    && rd 64 8 % 4 == 0
    && (List.range 16).all (fun k => rd (872 + 16 * k) 1 % 4 != 3)
    && (List.range 16).all (fun b =>
        let x := rd (1280 + 4 * b) 4
        x / 2 ^ 17 == 0 && x / 2 ^ 13 % 8 == 0 && x / 2 ^ 5 % 8 == 0 && x % 32 ≤ h.barcnt.getD b 0 && x / 256 % 32 ≤ x % 32)
    && (List.range h.tiles).all (fun t => rd (1344 + t) 1 ≤ 3)
    && (List.range h.warps).all (fun w => (rd 1248 1 + 256 - rd (1249 + w) 1) % 256 ≤ 16 || rd (recWarp w + 256) 4 == 0xFFFF_FFFF)
    && relayWordsOk h (rd 1376 8) (rd 1384 8) (rd 1392 8) (rd 1400 8)
    && (List.range 204).all (fun i => rd (2464 + 8 * i) 8 == 0)

/-- A warp block lies in its ranges (R290). -/
def State.warpOk (s : State) (m : RecMap) (h : KHeader) (w : Nat) : Bool :=
  let rd (off n : Nat) : Nat := s.recRead m (recWarp w + off) n
  let r := h.roles.getD (rd 264 1 % 4) default
  let ws := rd 272 4
  r.decl && rd 264 1 < 4 && (List.range 32).all (fun L => rd (8 * L) 8 % 4 == 0)
    && (rd 256 4 == 0xFFFF_FFFF || rd 265 1 == granules r.count) && rd 266 2 + rd 265 1 ≤ h.pool
    && rd 263 1 < 8 && rd 280 1 < 128 && rd 280 4 / 2 ^ 27 == 0 && rd 280 4 / 2 ^ 17 % 128 == 0
    && (ws / 2 ^ 15 % 2 == 0 || (1 ≤ ws / 256 % 128 && ws / 256 % 128 ≤ rd 280 1)) && rd 284 4 / 512 == 0
    && (s.blockFlash m w || (List.range 8).all fun n => rd (298 + 4 * n) 2 ≤ 256 && rd (297 + 4 * n) 1 == 0)
    && (List.range 7).all (fun i => rd (356 + 4 * i) 4 == 0) && (List.range 16).all (fun i => rd (896 + 8 * i) 8 == 0)

/-- The record's fields lie in their ranges (R289 to R291). -/
def State.recordOk (s : State) (m : RecMap) (h : KHeader) (wgnum : Nat) : Bool :=
  s.fixedOk m h wgnum && (List.range h.warps).all (s.warpOk m h)

/-- The record's bytes as placed: the window into the core's scratchpad, an acquire, STATE 3 (R234, R238, R291). -/
def State.placeLoaded (s : State) (m : RecMap) (c k : Nat) (g : Workgroup) : State :=
  let n := winBytes g.hdr.scratch
  let bytes := (List.range n).map fun i => (g.winBase + i, BitVec.ofNat 8 (s.recRead m (recWindow g.hdr + i) 1))
  let s := s.modCore c fun co => { co.makeWay g with
    scratch := Memory.writeCells (co.scratch.clear g.winBase n) (bytes.filter (fun b => b.2 != 0)) }
  let s := s.setSlot c k (some g)
  let s := s.modVf g.vf (fun v => { v with drained := false })
  (s.recWrite m 0 1 3).acquireDev c

/-! Parked workgroups (R332) -/

/-- Warps parked on TRAN, and warps that have not exited. -/
def Workgroup.parkedCount (g : Workgroup) : Nat × Nat :=
  let ws := g.warps.filter (fun w => !w.gone)
  ((ws.filter fun w => match w.block with | .parked _ _ => true | _ => false).length, ws.length)

/-- The share of parked warps has been reached (R332). -/
def State.parkedOut (s : State) (g : Workgroup) : Bool :=
  let n := g.parkedCount
  n.2 != 0 && (n.2 * s.parkth + 15) / 16 ≤ n.1

/-- A warp parks on an absent page (R120, R248). -/
def State.park (s : State) (c k w page : Nat) : State :=
  match s.wg? c k with
  | none => s
  | some g =>
    if g.spec w then s.legStop c k w
    else s.modWarp c k w fun x => { x with block := .parked g.vf page }

/-- The share of parked warps has been reached or left since it was last looked at. -/
def State.parkedChange (s : State) (g : Workgroup) : Bool := s.parkedOut g != g.parkedSent

/-- Where the share has been reached, by a park, an exit or a write of PARKTH, a header-only block of CLASS 5 asks the ostler to save
the workgroup (R332). -/
def State.parkedNote (s : State) (c k : Nat) : State :=
  match s.wg? c k with
  | none => s
  | some g =>
    let asks := s.parkedOut g && !g.parkedSent
    let s' := s.modWg c k fun g => { g with parkedSent := s.parkedOut g, parkAsked := g.parkAsked || asks }
    if asks then s'.wgBlock c k (trapHeader 5 16 k 0 g.lid) [] else s'

end Sys2Proof.Machine
end

