-- ==== Sys2Proof/Machine/WarpMem.lean ====
section
/-!
DEFINITION. The warp instructions that reach memory (R118 to R131), with RETRY (R228, R229), poison and uncorrectable errors (R120,
R251 to R253), and what a speculative leg's accesses do instead (R146, R232, R273 to R275).
-/
namespace Sys2Proof.Machine

/-! Formats (R76, R123, R124) -/

/-- Bytes of a format in memory (R76). -/
def fmtBytes (f : Nat) : Nat :=
  match f with
  | 0 | 1 | 9 | 10 => 1
  | 2 | 3 | 7 | 8 => 2
  | 5 => 8
  | 6 => 16
  | _ => 4

/-- The float format of a memory format, if it converts (R76). -/
def memFmt (f : Nat) : Option Fmt :=
  match f with
  | 7 => some fBF16
  | 8 => some fF16
  | 9 => some fE4M3
  | 10 => some fE5M2
  | _ => none

/-- The register form of loaded bytes: register j of it (R76, R123). -/
def loadReg (f n j : Nat) : W32 :=
  match memFmt f with
  | some m => (toF32 0 (m.decode n)).1
  | none =>
    match f with
    | 0 => (BitVec.ofNat 8 n).signExtend 32
    | 2 => (BitVec.ofNat 16 n).signExtend 32
    | _ => BitVec.ofNat 32 (n / 2 ^ (32 * j))

/-- The number that a store writes, and the flags of its conversion (R124). -/
def storeNat (f : Nat) (r : Nat → W32) : Nat × Byte :=
  match memFmt f with
  | some m => m.encode 0 (f32 (r 0))
  | none => (((List.range (fmtRegs f)).map fun j => (r j).toNat * 2 ^ (32 * j)).sum % 2 ^ (8 * fmtBytes f), 0)

/-! Lane addresses and their checks (R119, R120) -/

/-- One lane's access: lane, address as the lane formed it, physical address of its first byte. -/
structure LaneAt where
  lane : Nat
  ea   : Nat
  pa   : Nat
  deriving DecidableEq, Repr, Inhabited

/-- The bytes of an access. -/
def LaneAt.bytes (a : LaneAt) (n : Nat) : List Nat := (List.range n).map (a.pa + ·)

/-- Why an access is not performed. -/
inductive MemStop where
  | trap (t : TrapInfo)
  | park (page : Nat)

/-- The global address of lane L (R119). -/
def Issue.gaddr (it : Issue) (o : Op3) (L : Nat) : Nat :=
  (((it.src 1 o.a .raw 1 L).toNat * 2 ^ 32 + (it.src 1 o.a .raw 0 L).toNat : Int) + (it.src 2 o.b .sx 0 L).toInt)
    % 2 ^ 64 |>.toNat

/-- The window address, or the offset in an object, of lane L (R119). -/
def Issue.saddr (it : Issue) (o : Op3) (L : Nat) : Int :=
  (if o.a.isSlot then 0 else ((it.src 1 o.a .raw 0 L).toNat : Int)) + (it.src 2 o.b .sx 0 L).toInt

/-- An address as a trap reports it. -/
def trapAddr (ea : Int) : Nat := (ea % 2 ^ 64).toNat

/-- The first lane of the list whose access fails in one way. -/
def firstErr (ls : List (Nat × Except XErr Nat)) (e : XErr) : Option Nat :=
  (ls.find? fun p => match p.2 with | .error f => f == e | .ok _ => false).map (·.1)

/-- Accesses to global memory after steps 1 to 4 of R120. Steps 2 and 3 give one class, whose lowest lane is reported (log 42). -/
def Issue.globalLanes (it : Issue) (o : Op3) (n : Nat) (need : Need) : Except MemStop (List LaneAt) :=
  let ls := (lanesOf it.act).map fun L => (L, it.gaddr o L)
  match ls.find? fun p => p.2 % n != 0 with
  | some p => .error (.trap { cls := .align, x := p.2 })
  | none =>
    let xs := ls.map fun p => (p.2, it.s.translate it.core it.wg.vf p.2 need)
    match firstErr xs .addr, firstErr xs .tran with
    | some ea, _ => .error (.trap { cls := .addr, x := ea })
    | none, some ea => .error (.park (ea / 65536 * 65536))
    | none, none => .ok ((ls.zip xs).map fun p =>
        { lane := p.1.1, ea := p.1.2, pa := match p.2.2 with | .ok pa => pa | .error _ => 0 })

/-- Where a slot's object or the window lies: base, bytes; none for an empty or pending slot, or a store through a read-only
binding. -/
def Issue.scrRegion (it : Issue) (o : Op3) (write : Bool) : Option (Nat × Nat) :=
  match o.a with
  | .slot n =>
    match it.wg.slots.getD n.toNat .empty with
    | .bound _ base size rdo => if write && rdo then none else some (base, size)
    | _ => none
  | _ => some (it.wg.winBase, it.wg.hdr.scratch)

/-- Accesses to scratchpad after steps 1 and 2 of R120; a class 4 operand in a kernel without OBJECTS is ILL (R288). -/
def Issue.scrLanes (it : Issue) (o : Op3) (n : Nat) (write : Bool) : Except MemStop (List LaneAt) :=
  if it.act == 0 then .ok [] else
  if o.a.isSlot && !it.wg.hdr.objects then .error (.trap { cls := .ill }) else
  let ls := (lanesOf it.act).map fun L => (L, it.saddr o L)
  match ls.find? fun p => p.2 % (n : Int) != 0 with
  | some p => .error (.trap { cls := .align, x := trapAddr p.2 })
  | none =>
    let r := it.scrRegion o write
    let ok (ea : Int) : Bool := match r with | some (_, size) => 0 ≤ ea && ea + n ≤ size | none => false
    match ls.find? fun p => !ok p.2 with
    | some p => .error (.trap { cls := .addr, x := trapAddr p.2 })
    | none =>
      let base := match r with | some (b, _) => b | none => 0
      .ok (ls.map fun p => { lane := p.1, ea := trapAddr p.2, pa := base + p.2.toNat })

/-- REG of the operands of a memory word, D, A, B in that order: alignment in a repetition (R76, R117), then bounds (R14). -/
def Issue.memReg (it : Issue) (o : Op3) (d a : Nat) : Option TrapInfo :=
  ([(0, o.d, d), (1, o.a, a), (2, o.b, 1)].findSome? fun p =>
    match it.misaligned p.1 p.2.1 p.2.2 with
    | some r => some r
    | none => it.badOpnd p.1 p.2.1 p.2.2).map fun n => { cls := .reg, x := regX 0 n }

/-- Lines of some accesses, each once, with the address of the line as a trap reports it. -/
def linesOf (ls : List LaneAt) : List (Nat × Nat) :=
  (ls.map fun a => (lineOf a.pa, a.ea / 64 * 64)).eraseDups

def Issue.access (it : Issue) (o : Op3) : Access :=
  { core := it.core, slot := it.slot, vf := it.wg.vf, scope := o.scope, sid := o.sid.toNat, cpol := o.cpol }

/-- The gang goes under RETRY, or stays under it, on a pinned line (R229). -/
def Issue.retry (it : Issue) (line addr : Nat) : Out :=
  let l := it.gang.leader
  let since := (it.wp.waits.findSome? fun q =>
    if q.leader == l then (match q.kind with | .pin _ _ t => some t | _ => none) else none).getD it.s.clock
  .next (it.s.modWarp it.core it.slot it.w fun w =>
    { w with waits := { leader := l, held := true, kind := .pin line addr since } :: w.waits.filter (fun q => q.leader != l) })

/-- A word whose accesses cannot be performed. -/
def Issue.memStop (it : Issue) : MemStop → Out
  | .trap t => it.trap t
  | .park page => .next (it.s.park it.core it.slot it.w page)

/-- Stops a speculative leg (R273). -/
def Issue.stopLeg (it : Issue) : Out := .next (it.s.legStop it.core it.slot it.w)

/-- The relay of which the warp is a leg at position 1 or higher, and the position. -/
def Issue.specLeg (it : Issue) : Option (Relay × Nat) :=
  match it.wg.legOf it.w with
  | some (r, p) => if 1 ≤ p then some (r, p) else none
  | none => none

/-! What legs see of each other (R274, R275) -/

/-- A byte in a leg's buffer: the last store to it, but for stores of one cycle. -/
def Leg.byte? (l : Leg) (skip : Option Nat) (scratch : Bool) (a : Nat) : Option Byte :=
  l.buf.reverse.findSome? fun b =>
    if b.scratch == scratch && some b.clock != skip then (b.bytes.reverse.find? fun x => x.1 == a).map (·.2) else none

/-- A byte as the leg at p finds it in buffers (R275): its own (true), or that of the nearest older leg before this cycle (false;
R277). -/
def Relay.bufByte? (r : Relay) (clock p : Nat) (scratch : Bool) (a : Nat) : Option (Byte × Bool) :=
  match (r.leg p).byte? none scratch a with
  | some b => some (b, true)
  | none => (((List.range (p - 1)).map fun i => p - 1 - i).findSome? fun q => (r.leg q).byte? (some clock) scratch a).map
      fun b => (b, false)

/-- A byte of memory as it was before leg 0's store of this cycle (R277). -/
def Relay.before? (r : Relay) (clock : Nat) (scratch : Bool) (a : Nat) : Option Byte :=
  (r.undo.find? fun u => u.1 == clock && u.2.1 == scratch && u.2.2.1 == a).map (·.2.2.2)

/-- An older leg has stored in this cycle to one of some lines (R277). -/
def Relay.storedNow (r : Relay) (clock p : Nat) (lines : List (Bool × Nat)) : Bool :=
  (r.undo.any fun u => u.1 == clock && lines.contains (u.2.1, lineOf u.2.2.1))
    || (List.range p).any fun q => (r.leg q).buf.any fun b => b.clock == clock && b.bytes.any fun x => lines.contains (b.scratch, lineOf x.1)

/-- Lines, scratchpad or global. -/
def taggedLines (scratch : Bool) (as : List Nat) : List (Bool × Nat) := (as.map fun a => (scratch, lineOf a)).eraseDups

/-- A write by the leg at p records a conflict against every younger leg that has read the line (R274). -/
def Relay.wrote (r : Relay) (p : Nat) (lines : List (Bool × Nat)) : Relay :=
  { r with legs := (List.range r.legs.length).map fun q =>
      let l := r.leg q
      if p < q && lines.any (fun x => l.reads.contains x) then { l with conflict := true } else l }

/-- A store of leg 0, performed in memory, against the younger legs' read sets; the bytes as they were stand for loads of this cycle
(R274, R277). -/
def State.noteWrite (s : State) (it : Issue) (scratch : Bool) (old : Nat → Byte) (as : List Nat) : State :=
  match it.wg.legOf it.w with
  | some (_, 0) => s.modWg it.core it.slot fun g => g.modRelay fun r =>
      ({ r with undo := as.map fun a => (it.s.clock, scratch, a, old a) } : Relay).wrote 0 (taggedLines scratch as)
  | _ => s

/-- Bytes that a leg's buffers hold for it: its load needs no memory for them (R275). -/
def Issue.served (it : Issue) (scratch : Bool) (a : Nat) : Bool :=
  match it.specLeg with
  | some (r, p) => (r.bufByte? it.s.clock p scratch a).isSome
  | none => false

/-! Loads -/

/-- The end of a load: the register form of each lane's bytes. -/
def Issue.loaded (it : Issue) (s : State) (o : Op3) (val : Nat → Nat) : Out :=
  .next (it.finish s o.ctl
    { upd := fun w => (List.range (fmtRegs o.typ)).foldl (fun w j => it.putD o.d j (fun L => loadReg o.typ (val L) j) w) w,
      cls := 12, settles := it.keysD o.d (fmtRegs o.typ) })

/-- Value of the lane's bytes in a list of results. -/
def laneVal (vs : List (Nat × Nat)) (L : Nat) : Nat := ((vs.find? fun v => v.1 == L).map (·.2)).getD 0

/-- Lines that a load of the leg at p takes from elsewhere than its own buffer (R274, R275). -/
def Issue.takenLines (it : Issue) (scratch : Bool) (n : Nat) (ls : List LaneAt) (r : Relay) (p : Nat) : List (Bool × Nat) :=
  taggedLines scratch ((ls.flatMap (·.bytes n)).filter fun a =>
    match r.bufByte? it.s.clock p scratch a with | some (_, own) => !own | none => true)

/-- A load of a speculative leg would read a 257th line: the leg stops before it (R273). -/
def Issue.overfull (it : Issue) (scratch : Bool) (n : Nat) (ls : List LaneAt) : Bool :=
  match it.specLeg with
  | some (r, p) => 256 < ((r.leg p).reads ++ it.takenLines scratch n ls r p).eraseDups.length
  | none => false

/-- A load by a speculative leg (R146, R273 to R275); `mem` reads a byte from memory. -/
def Issue.specLoad (it : Issue) (o : Op3) (scratch : Bool) (ls : List LaneAt) (mem : Nat → Byte) (r : Relay) (p : Nat)
    (s : State) : Out :=
  let n := fmtBytes o.typ
  let lines := it.takenLines scratch n ls r p
  let hit := r.storedNow it.s.clock p lines
  let byte (a : Nat) : Byte := match r.bufByte? it.s.clock p scratch a with
    | some (b, _) => b
    | none => (r.before? it.s.clock scratch a).getD (mem a)
  let s := s.modWg it.core it.slot fun g => g.modRelay fun r =>
    r.modLeg p fun l => { l with reads := (l.reads ++ lines).eraseDups, conflict := l.conflict || hit }
  it.loaded s o (laneVal (ls.map fun a => (a.lane, leNat ((a.bytes n).map byte))))

/-- `ld` (R123). -/
def execLd (o : Op3) (s : State) : Out :=
  warpWord o.ctl (fun it =>
    match it.stallTrap [(1, o.a, 2), (2, o.b, 1)] [(0, o.d), (2, o.b)] [] with
    | some t => it.trap t
    | none =>
    match it.memReg o (fmtRegs o.typ) 2 with
    | some t => it.trap t
    | none =>
    let n := fmtBytes o.typ
    match it.globalLanes o n .read with
    | .error e => it.memStop e
    | .ok ls =>
      let acq := o.rnd == 1 && 2 ≤ o.scope
      if (acq && it.specLeg.isSome && it.act != 0) || it.overfull false n ls then it.stopLeg else
      let acc := it.access o
      let from_ := ls.filter fun a => (a.bytes n).any fun b => !it.served false b
      let lines := linesOf from_
      match it.s.firstPin it.core (it.s.missing acc (lines.map (·.1))) with
      | some ln => it.retry ln (((lines.find? fun q => q.1 == ln).map (·.2)).getD 0)
      | none =>
        match from_.find? fun a => it.s.accPoison acc ((a.bytes n).filter fun b => !it.served false b) with
        | some a => it.trap { cls := .eccu, x := a.ea }
        | none =>
          let kv := it.s.kvRanges
          let s := ls.foldl (fun s a => s.tlbFill it.core it.wg.vf a.ea) it.s
          let s := s.afterRead acc (lines.map (·.1))
          match it.specLeg with
          | some (r, p) => it.specLoad o false ls (it.s.loadByte acc kv) r p s
          | none =>
            let s := if acq && it.act != 0 then s.acquireDev it.core else s
            it.loaded s o (laneVal (ls.map fun a => (a.lane, leNat ((a.bytes n).map (it.s.loadByte acc kv)))))) s

/-- The first lane of a scratchpad access with an uncorrectable word, and the address in it. -/
def Issue.scrError (it : Issue) (ls : List LaneAt) (n : Nat) : Option (LaneAt × Nat) :=
  ls.findSome? fun a => (it.s.scrBad it.core ((a.bytes n).filter fun b => !it.served true b)).map fun b => (a, b)

/-- The warp as a reader and writer of scratchpad. -/
def Issue.who (it : Issue) : Nat × Nat := (it.slot, it.w)

/-- `lds` (R123). -/
def execLds (o : Op3) (s : State) : Out :=
  warpWord o.ctl (fun it =>
    match it.stallTrap [(1, o.a, 1), (2, o.b, 1)] [(0, o.d), (2, o.b)] [] with
    | some t => it.trap t
    | none =>
    match it.memReg o (fmtRegs o.typ) 1 with
    | some t => it.trap t
    | none =>
    let n := fmtBytes o.typ
    match it.scrLanes o n false with
    | .error e => it.memStop e
    | .ok ls =>
      if it.overfull true n ls then it.stopLeg else
      match it.scrError ls n with
      | some (a, b) =>
        if it.specLeg.isSome then it.stopLeg else .next (it.s.scratchError it.core it.slot it.w b a.ea)
      | none =>
        match it.specLeg with
        | some (r, p) => it.specLoad o true ls (it.s.scrHaz it.core it.who) r p it.s
        | none => it.loaded it.s o (laneVal (ls.map fun a => (a.lane, leNat ((a.bytes n).map (it.s.scrHaz it.core it.who)))))) s

/-! Stores -/

/-- What each lane of a store writes, and the flags of all. -/
def Issue.storeVals (it : Issue) (o : Op3) (ls : List LaneAt) : List (List (Nat × Byte)) × Byte :=
  let n := fmtBytes o.typ
  let vs := ls.map fun a => (a, storeNat o.typ fun j => it.src 0 o.d .raw j a.lane)
  (vs.map fun v => (v.1.bytes n).zip (leBytes n v.2.1), vs.foldl (fun (z : Byte) v => z ||| v.2.2) 0)

/-- A store by a speculative leg: buffered, in at most 64 lines (R146, R273). -/
def Issue.specStore (it : Issue) (o : Op3) (scratch : Bool) (ls : List LaneAt) (r : Relay) (p : Nat) (s : State) : Out :=
  let v := it.storeVals o ls
  let bytes := v.1.flatten
  if bytes.isEmpty then .next (it.finish s o.ctl { cls := 13, flags := v.2 }) else
  let lines := taggedLines scratch (bytes.map (·.1))
  let held := ((r.leg p).buf.flatMap fun b => taggedLines b.scratch (b.bytes.map (·.1)))
  if 64 < (held ++ lines).eraseDups.length then it.stopLeg
  else
    let eas := ls.flatMap fun a => (a.bytes (fmtBytes o.typ)).map fun b => (b, a.ea)
    let b : BufStore := { scratch, bytes, vlines := if scratch then eas else linesOf ls, cpol := o.cpol, sid := o.sid.toNat,
                          scope := o.scope, clock := it.s.clock }
    let s := s.modWg it.core it.slot fun g => g.modRelay fun r =>
      (r.modLeg p fun l => { l with buf := l.buf ++ [b] }).wrote p lines
    .next (it.finish s o.ctl { cls := 13, flags := v.2 })

/-- `st` (R124). -/
def execSt (o : Op3) (s : State) : Out :=
  warpWord o.ctl (fun it =>
    match it.stallTrap [(1, o.a, 2), (2, o.b, 1), (0, o.d, fmtRegs o.typ)] [(0, o.d), (2, o.b)] [] with
    | some t => it.trap t
    | none =>
    match it.memReg o (fmtRegs o.typ) 2 with
    | some t => it.trap t
    | none =>
    match it.globalLanes o (fmtBytes o.typ) .write with
    | .error e => it.memStop e
    | .ok ls =>
      let rel := o.rnd == 1 && 2 ≤ o.scope && it.act != 0
      let s := ls.foldl (fun s a => s.tlbFill it.core it.wg.vf a.ea) it.s
      match it.specLeg with
      | some (r, p) => if rel then it.stopLeg else it.specStore o false ls r p s
      | none =>
        let lines := linesOf ls
        match it.s.firstPin it.core (lines.map (·.1)) with
        | some ln => it.retry ln (((lines.find? fun q => q.1 == ln).map (·.2)).getD 0)
        | none =>
          let v := it.storeVals o ls
          let s := if rel then s.releaseDev it.core (BitVec.ofNat 16 (2 ^ o.sid.toNat)) else s
          let s := s.storeHaz (it.access o) v.1.flatten
          let s := ls.foldl (fun s a => s.track it.wg.vf a.ea) s
          let s := s.noteWrite it false (it.s.accByte (it.access o)) (v.1.flatten.map (·.1))
          .next (it.finish s o.ctl { cls := 13, flags := v.2 })) s

/-- `sts` (R124). -/
def execSts (o : Op3) (s : State) : Out :=
  warpWord o.ctl (fun it =>
    match it.stallTrap [(1, o.a, 1), (2, o.b, 1), (0, o.d, fmtRegs o.typ)] [(0, o.d), (2, o.b)] [] with
    | some t => it.trap t
    | none =>
    match it.memReg o (fmtRegs o.typ) 1 with
    | some t => it.trap t
    | none =>
    match it.scrLanes o (fmtBytes o.typ) true with
    | .error e => it.memStop e
    | .ok ls =>
      match it.specLeg with
      | some (r, p) => it.specStore o true ls r p it.s
      | none =>
        let v := it.storeVals o ls
        let bytes := v.1.flatten
        match it.s.scrBad it.core (partialBytes bytes) with
        | some b =>
          let a := (ls.find? fun a => (a.bytes (fmtBytes o.typ)).contains b).getD default
          .next (it.s.scratchError it.core it.slot it.w b a.ea)
        | none =>
          let s := (it.s.scrWriteHaz it.core it.who bytes).noteWrite it true (it.s.scr it.core) (bytes.map (·.1))
          .next (it.finish s o.ctl { cls := 13, flags := v.2 })) s

/-! Atomics (R125, R126) -/

/-- The new value of an atomic of `w` bits (R126); for cas `data` compares and `swap` replaces. -/
def atomicNew (aop : Nat) (sgn : Bool) (w old data swap : Nat) : Nat :=
  let key (x : Nat) : Int := if sgn && 2 ^ (w - 1) ≤ x then (x : Int) - 2 ^ w else x
  match aop with
  | 0 => (old + data) % 2 ^ w
  | 1 => if key old ≤ key data then old else data
  | 2 => if key data ≤ key old then old else data
  | 3 => Nat.land old data
  | 4 => Nat.lor old data
  | 5 => Nat.xor old data
  | 6 => data
  | 7 => if old == data then swap else old
  | 8 => (addF32 0 (BitVec.ofNat 32 old) (BitVec.ofNat 32 data)).1.toNat
  | 9 =>
    let e (i : Nat) : Nat := (bfRound 0 (FVal.add 0 (bfElem (BitVec.ofNat 32 old) i) (bfElem (BitVec.ofNat 32 data) i))).1
    e 0 + 65536 * e 1
  | 10 => if data ≤ old then 0 else old + 1
  | _ => if old == 0 || data < old then data else old - 1

/-- Data and swap value of lane L. -/
def Issue.atomData (it : Issue) (o : Op3) (L : Nat) : Nat × Nat :=
  let k := fmtRegs o.typ
  let num (from' : Nat) : Nat := ((List.range k).map fun j => (it.src 0 o.d .raw (from' + j) L).toNat * 2 ^ (32 * j)).sum
  (num 0, if o.aop == 7 then num k else 0)

/-- The lanes' updates in ascending order over any memory; each lane's old value (R126). -/
def atomicLanes {σ : Type} (rd : σ → Nat → Byte) (wr : σ → List (Nat × Byte) → σ) (n : Nat)
    (new : Nat → Nat → Nat) : σ → List LaneAt → σ × List (Nat × Nat)
  | m, [] => (m, [])
  | m, a :: r =>
    let as := a.bytes n
    let old := leNat (as.map (rd m))
    let m := wr m (as.zip (leBytes n (new a.lane old)))
    let z := atomicLanes rd wr n new m r
    (z.1, (a.lane, old) :: z.2)

/-- The end of an atomic: old values to the registers where the opcode returns them, FULLSV (R126, R334). -/
def Issue.atomDone (it : Issue) (s : State) (o : Op3) (olds : Option (List (Nat × Nat))) : Out :=
  .next (it.finish s o.ctl
    { upd := fun w =>
        let w := if it.act == 0 then w else { w with fullsv := true }
        match olds with
        | some vs => (List.range (fmtRegs o.typ)).foldl (fun w j =>
            it.putD o.d j (fun L => BitVec.ofNat 32 (laneVal vs L / 2 ^ (32 * j))) w) w
        | none => w
      cls := 14, settles := if olds.isSome then it.keysD o.d (fmtRegs o.typ) else [] })

/-- `atom` and `red` (R126); below device scope `.nl1` leaves the line dirty in L1 too (R227): R121 makes an exception of loads and
stores alone. -/
def atomGlobal (o : Op3) (result : Bool) (s : State) : Out :=
  warpWord o.ctl (fun it =>
    let k := atomRegs o.aop o.typ
    match it.stallTrap [(1, o.a, 2), (2, o.b, 1), (0, o.d, k)] [(0, o.d), (2, o.b)] [] with
    | some t => it.trap t
    | none =>
    match it.memReg o k 2 with
    | some t => it.trap t
    | none =>
    let n := fmtBytes o.typ
    match it.globalLanes o n .rw with
    | .error e => it.memStop e
    | .ok ls =>
      if it.specLeg.isSome && it.act != 0 then it.stopLeg else
      let lines := linesOf ls
      match it.s.firstPin it.core (lines.map (·.1)) with
      | some ln => it.retry ln (((lines.find? fun q => q.1 == ln).map (·.2)).getD 0)
      | none =>
        let acc := { it.access o with cpol := if o.cpol == 1 then 0 else o.cpol }
        match (if result then ls.find? fun a => it.s.accPoison acc (a.bytes n) else none) with
        | some a => it.trap { cls := .eccu, x := a.ea }
        | none =>
          let ar := o.rnd == 2 && 2 ≤ o.scope && it.act != 0
          let s := ls.foldl (fun s a => s.tlbFill it.core it.wg.vf a.ea) it.s
          let s := if ar then s.releaseDev it.core (BitVec.ofNat 16 (2 ^ o.sid.toNat)) else s
          let new (L old : Nat) : Nat := let d := it.atomData o L; atomicNew o.aop o.sgn (8 * n) old d.1 d.2
          let z := atomicLanes (fun (m : State) => m.accByte acc) (fun m bs => m.storeHaz acc bs) n new s ls
          let s := ls.foldl (fun s a => s.track it.wg.vf a.ea) z.1
          let s := if ar && result then s.acquireDev it.core else s
          let s := s.noteWrite it false (it.s.accByte acc) (ls.flatMap (·.bytes n))
          it.atomDone s o (if result then some z.2 else none)) s

def execAtom (o : Op3) (s : State) : Out := atomGlobal o true s
def execRed (o : Op3) (s : State) : Out := atomGlobal o false s

/-- `atoms` (R126). -/
def execAtoms (o : Op3) (s : State) : Out :=
  warpWord o.ctl (fun it =>
    let k := atomRegs o.aop o.typ
    match it.stallTrap [(1, o.a, 1), (2, o.b, 1), (0, o.d, k)] [(0, o.d), (2, o.b)] [] with
    | some t => it.trap t
    | none =>
    match it.memReg o k 1 with
    | some t => it.trap t
    | none =>
    let n := fmtBytes o.typ
    match it.scrLanes o n true with
    | .error e => it.memStop e
    | .ok ls =>
      if it.specLeg.isSome && it.act != 0 then it.stopLeg else
      match it.scrError ls n with
      | some (a, b) => .next (it.s.scratchError it.core it.slot it.w b a.ea)
      | none =>
        let new (L old : Nat) : Nat := let d := it.atomData o L; atomicNew o.aop o.sgn (8 * n) old d.1 d.2
        let z := atomicLanes (fun (m : State) => m.scrHaz it.core it.who) (fun m bs => m.scrWriteHaz it.core it.who bs) n new it.s ls
        let s := z.1.noteWrite it true (it.s.scr it.core) (ls.flatMap (·.bytes n))
        it.atomDone s o (some z.2)) s

/-! Fences (R127, R128) -/

def immNat : Opnd → Nat
  | .imm v => v.toNat
  | _ => 0

/-- A fence of a warp: at device scope or wider it writes back the lines of the streams `rel` (R127, R230) and drops old copies (R223). -/
def warpFence (o : Op3) (rel : W16) (s : State) : Out :=
  warpWord o.ctl (fun it =>
    if it.act == 0 || o.scope < 2 then .next (it.finish it.s o.ctl { cls := 14 })
    else if it.specLeg.isSome then it.stopLeg
    else .next (it.finish ((it.s.releaseDev it.core rel).acquireDev it.core) o.ctl { cls := 14 })) s

def execFence (o : Op3) (s : State) : Out :=
  warpFence o (BitVec.ofNat 16 (immNat o.b) ||| BitVec.ofNat 16 (2 ^ o.sid.toNat)) s
def execFencex (o : Op3) (s : State) : Out := warpFence o (BitVec.ofNat 16 (immNat o.a)) s

/-! Prefetch and cache control (R129, R130) -/

/-- Lines of the active lanes' addresses that would pass R120. -/
def Issue.hintLines (it : Issue) (o : Op3) : List Nat :=
  ((lanesOf it.act).filterMap fun L =>
    match it.s.translate it.core it.wg.vf (it.gaddr o L) .read with
    | .ok pa => some (lineOf pa)
    | .error _ => none).eraseDups

/-- The end of a hint that acts on some lines. -/
def Issue.hint (it : Issue) (o : Op3) (cls : Nat) (f : Issue → List Nat → State → State) (ls : List Nat) : Out :=
  .next (it.finish (f it ls it.s) o.ctl { cls := cls })

/-- The shared shape of `pref` and `cctl`; `f` acts on the lines. `pref` never traps (R129): one that names a register out of bounds
is dropped, and one that reads too early has an unspecified guard or address. -/
def hintOp (o : Op3) (cls : Nat) (never : Bool) (f : Issue → List Nat → State → State) (s : State) : Out :=
  guardedWord o.ctl (!never) (fun it =>
    match (if never then none else it.stallTrap [(1, o.a, 2), (2, o.b, 1)] [(2, o.b)] []) with
    | some t => it.trap t
    | none =>
      match it.regTrap [(1, o.a, 2), (2, o.b, 1)] with
      | some t => if never then it.hint o cls f [] else it.trap t
      | none => it.hint o cls f (it.hintLines o)) s

/-- `pref`: level 1 brings the lines into L1; a line that another core holds pinned is left (R129, R228). -/
def execPref (o : Op3) (s : State) : Out :=
  hintOp o 12 true (fun it ls s =>
    if o.var == 0 then
      ls.foldl (fun s ln => if (s.holder it.core ln).isSome then s else s.fill it.core it.wg.vf ln) s
    else s) s

/-- `cctl`: `.inv1` discards clean L1 copies, `.unk2` clears keep marks (R130). -/
def execCctl (o : Op3) (s : State) : Out :=
  hintOp o 14 false (fun it ls s =>
    if o.var == 0 then
      s.modCore it.core fun co => { co with l1 := co.l1.filter fun l => l.isDirty || !ls.contains l.line }
    else { s with l2 := s.l2.map fun l => if ls.contains l.line then { l with keep := false } else l }) s

/-! The decision queue (R131) -/

/-- `dqpop`. -/
def execDqpop (o : Op3) (s : State) : Out :=
  warpWord o.ctl (fun it =>
    match it.regTrap [(0, o.d, 2)] with
    | some t => it.trap t
    | none =>
      if it.act == 0 then .next (it.finish it.s o.ctl { cls := 11 })
      else if it.specLeg.isSome then it.stopLeg
      else if it.wp.head == it.wg.dqTail then
        let l := it.gang.leader
        .next ((it.s.modWarp it.core it.slot it.w fun w =>
          { w with waits := { leader := l, held := true, kind := .dqpop } :: w.waits.filter (fun q => q.leader != l) }).settle
            it.core it.slot)
      else
        let e := it.wg.dq.getD (it.wp.head - it.wg.dqFirst) 0
        let s := it.finish it.s o.ctl
          { upd := fun w => it.putD o.d 1 (fun _ => BitVec.ofNat 32 (e.toNat / 2 ^ 32))
              (it.putD o.d 0 (fun _ => e.setWidth 32) { w with head := w.head + 1, fullsv := true })
            cls := 11, settles := it.keysD o.d 2 }
        .next ((s.modWg it.core it.slot fun g => g.retire).settle it.core it.slot)) s

end Sys2Proof.Machine
end

