-- ==== Sys2Proof/Machine/Control.lean ====
section
/-!
DEFINITION. Branches, calls, exit, meeting words, barriers, roles, flashback points, hints, user traps and the relay-leg instructions
of the warp stream (R132 to R145).
-/
namespace Sys2Proof.Machine

/-! Branches (R133, R134) -/

/-- A branch offset in bytes (R70). -/
def branchOff (imm : W32) : W64 := 12 * imm.signExtend 64

/-- Active lanes go where `target` says, the other candidate lanes past the word. -/
def Issue.goto (it : Issue) (c : Ctl) (target : Nat → W64) (f : Fin) : Out :=
  .next (it.finish it.s c { f with next := some fun L => if laneBit it.act L then target L else it.gang.pc + 12 })

/-- `bra`. -/
def execBra (o : OpL) (s : State) : Out :=
  warpWord o.ctl (fun it => it.goto o.ctl (fun _ => it.gang.pc + branchOff o.imm) {}) s

/-- `bru` (R134). -/
def execBru (o : OpL) (s : State) : Out :=
  warpWord o.ctl (fun it =>
    let uniform := it.act == 0 || it.act == it.gang.cand
    if !uniform && it.wp.unifx then it.trap { cls := .unif }
    else
      let taken := laneBit it.act ((lanesOf it.gang.cand).headD 0)
      let dest := if taken then it.gang.pc + branchOff o.imm else it.gang.pc + 12
      .next (it.finish it.s o.ctl
        { next := some fun _ => dest, flags := if uniform then 0 else flUNIF, uniform := o.ctl.grd.toNat % 8 == 7 })) s

/-- `call`: the link pair is bounds-checked (R14) and a fixed-latency result (R82), the same in every lane (R206). -/
def execCall (o : OpL) (s : State) : Out :=
  warpWord o.ctl (fun it =>
    let link : Opnd := .vreg (BitVec.ofNat 8 o.xt.toNat) .id
    match it.regTrap [(3, link, 2)] with
    | some t => it.trap t
    | none =>
      let ret := it.gang.pc + 12
      it.goto o.ctl (fun _ => it.gang.pc + branchOff o.imm)
        { upd := fun w => (w.setV o.xt.toNat it.act fun _ => ret.setWidth 32).setV (o.xt.toNat + 1) it.act
            fun _ => BitVec.ofNat 32 (ret.toNat / 2 ^ 32)
          uniform := true, keys := it.keyAct (.v o.xt.toNat) ++ it.keyAct (.v (o.xt.toNat + 1)) }) s

/-- `brx` and `ret`: every active lane is checked before any moves. -/
def branchReg (o : Op3) (s : State) : Out :=
  warpWord o.ctl (fun it =>
    match it.stallTrap [(1, o.a, 2)] [] [] with
    | some t => it.trap t
    | none =>
      match it.regTrap [(1, o.a, 2)] with
      | some t => it.trap t
      | none =>
        let t (L : Nat) : W64 := (it.src 1 o.a .raw 1 L) ++ (it.src 1 o.a .raw 0 L)
        match (lanesOf it.act).find? fun L => (t L).toNat % 4 != 0 with
        | some L => it.trap { cls := .align, x := (t L).toNat }
        | none => it.goto o.ctl t {}) s

def execBrx (o : Op3) (s : State) : Out := branchReg o s
def execRet (o : Op3) (s : State) : Out := branchReg o s

/-- `exit` (R135): ILL in a relay leg (R267); FULLSV when some lane stays (R334). -/
def execExit (o : Op3) (s : State) : Out :=
  warpWord o.ctl (fun it =>
    if it.act == 0 then .next (it.finish it.s o.ctl {})
    else if (it.wg.legOf it.w).isSome then it.trap { cls := .ill }
    else
      let ex := it.wp.exited ||| it.act
      let s := it.finish it.s o.ctl
        { upd := fun w => { w with exited := ex, fullsv := w.fullsv || ex != BitVec.allOnes 32 }
          next := some fun L => if laneBit it.act L then it.gang.pc else it.gang.pc + 12 }
      .next (s.afterExit it.core it.slot it.w)) s

/-! Meeting words (R136) -/

/-- The issue as it stands in another state, with every lane that has not exited in one gang. -/
def Issue.whole (it : Issue) (s : State) (w : Warp) : Issue := { it with s := s, wp := w, gang := w.whole, act := w.live }

/-- Changes the warp of the issue. -/
def Issue.modW (it : Issue) (f : Warp → Warp) : State := it.s.modWarp it.core it.slot it.w f

/-- A meeting word: its lanes stop and wait, and when every non-exited lane waits here it executes once, as `done` says, with all of
its checks (R136). -/
def meetingWord (c : Ctl) (cls : Nat) (hitch : Bool) (done : Issue → Out) (s : State) : Out :=
  warpWord c (fun it =>
    if it.wp.met then done (it.whole (it.modW fun w => { w.meeting with readyAt := max w.readyAt (it.s.clock + 1) })
      it.wp.meeting)
    else
      let s := it.finish it.s c
        { upd := fun w => { w with meet := w.meet ||| it.act, hitch := if hitch then w.hitch ||| it.act else w.hitch }
          cls := cls, stay := true }
      match s.wg? it.core it.slot with
      | none => .next s
      | some g =>
        let w := g.warps.getD it.w default
        if w.met then
          let s := s.modWarp it.core it.slot it.w Warp.meeting
          done (({ it with wg := g }).whole s w.meeting)
        else .next (s.meetCheck it.core it.slot it.w)) s

/-- The warp goes on past the meeting word. -/
def Issue.pass (it : Issue) (f : Warp → Warp) : State :=
  it.modW fun w => { (f w).passWord with block := .none, readySince := it.s.clock }

/-- `hitch` (R137). -/
def execHitch (o : Op3) (s : State) : Out := meetingWord o.ctl 0 true (fun it => .next (it.pass id)) s

/-- `bar` and `bar.arv` (R138). -/
def barOp (o : Op3) (arv : Bool) (s : State) : Out :=
  meetingWord o.ctl 0 false (fun it =>
    if it.specLeg.isSome then it.stopLeg else
    let b := immNat o.a
    let clock := it.s.clock
    let arrive (s : State) : Out := .next (s.modWg it.core it.slot fun g => g.arrive clock b it.w)
    if !(it.wg.bars.getD b default).declared then it.trap { cls := .ill }
    else if it.wg.hasArrived b it.w then .next (it.modW fun w => { w with block := .barAgain b arv, fullsv := true })
    else if arv then arrive (it.pass fun w => { w with fullsv := true })
    else arrive (it.modW fun w => { w with block := .bar b, fullsv := true })) s

def execBar (o : Op3) (s : State) : Out := barOp o false s
def execBarArv (o : Op3) (s : State) : Out := barOp o true s

/-- `role` (R16, R139): the warp blocks; the grant is an event of its own. -/
def execRole (o : Op3) (s : State) : Out :=
  meetingWord o.ctl 0 false (fun it =>
    let k := immNat o.a
    if !(it.wg.hdr.roles.getD k default).decl then it.trap { cls := .ill }
    else .next ((it.modW fun w => { w with block := .role k, fullsv := true }).settle it.core it.slot)) s

/-! Flashback points, hints, user traps (R140, R141) -/

/-- `fbp`. -/
def execFbp (o : Op3) (s : State) : Out :=
  warpWord o.ctl (fun it =>
    let k := immNat o.a
    if it.wg.hdr.fbn ≤ k then it.trap { cls := .ill }
    else
      let pc := it.gang.pc + 12
      let whole := it.act == it.wp.live
      .next (it.finish it.s o.ctl
        { upd := fun w =>
            if whole then { w with fbpc := pc, fbnum := k, fbv := true, fullsv := false } else { w with fullsv := true } })) s

/-- `yield`. -/
def execYield (o : Op3) (s : State) : Out :=
  warpWord o.ctl (fun it => .next ((it.finish it.s o.ctl {}).modWarp it.core it.slot it.w fun w => { w with passed := true })) s

/-- `trap`. -/
def execTrap (o : Op3) (s : State) : Out :=
  warpWord o.ctl (fun it =>
    if it.act == 0 then .next (it.finish it.s o.ctl {}) else it.trap { cls := .user, x := immNat o.a }) s

/-! Relay legs (R142 to R145) -/

/-- `rjoin` (R142). -/
def execRjoin (o : Op3) (s : State) : Out :=
  meetingWord o.ctl 15 false (fun it =>
    if (it.wg.legOf it.w).isSome then it.trap { cls := .ill }
    else
      match it.wg.relay with
      | some r =>
        if it.w < r.width then .next (it.modW fun w => { w with block := .rjoin, fullsv := true })
        else .next (it.pass fun w => { w with fullsv := true })
      | none => .next (it.modW fun w => { w with block := .rjoin, fullsv := true })) s

/-- What the leg of the issue is doing. -/
def Issue.legState (it : Issue) : LegState :=
  match it.wg.legOf it.w with
  | some (r, p) => (r.leg p).state
  | none => .idle

/-- Changes the leg of the issue. -/
def State.modLegOf (s : State) (it : Issue) (f : Leg → Leg) : State :=
  s.modWg it.core it.slot fun g =>
    match g.legOf it.w with
    | some (r, p) => { g with relay := some (r.modLeg p f) }
    | none => g

/-- The carry registers of the issue's leg as the compare and the copy into the guess record read them: one read too early is
unspecified (R83, R281). -/
def Issue.carry (it : Issue) : List Lanes :=
  match it.wg.legOf it.w with
  | some (r, _) => (r.carryOf it.wp).zipIdx.map fun c => c.1.zipIdx.map fun x =>
      if it.wp.early it.s.clock (.v (r.cbase + c.2)) x.2 then it.free 32 (2000 + 32 * c.2 + x.2) else x.1
  | none => []

/-- STALLCHK of the first carry register read too early (R84, R281). -/
def Issue.carryTrap (it : Issue) : Option TrapInfo :=
  match it.wg.legOf it.w with
  | some (r, _) =>
    if !it.wp.stchk then none
    else ((List.range r.ccnt).find? fun k => (lanesOf it.wp.live).any (it.wp.early it.s.clock (.v (r.cbase + k)))).map fun k =>
      { cls := .stallchk, x := r.cbase + k }
  | none => none

/-- `rsig.guessed` (R143). -/
def execRsigGuessed (o : Op3) (s : State) : Out :=
  meetingWord o.ctl 15 false (fun it =>
    if it.legState != LegState.guessing then it.trap { cls := .ill }
    else
      match it.carryTrap with
      | some t => it.trap t
      | none =>
        let c := it.carry
        let s := it.modW fun w => { w with block := .guessed, fullsv := true }
        let s := s.modLegOf it fun l => { l with state := .guessed, guess := some c }
        .next (s.relayCheck it.core it.slot)) s

/-- `rsig.exit` (R143): the mark takes effect only if the leg commits. -/
def execRsigExit (o : Op3) (s : State) : Out :=
  warpWord o.ctl (fun it =>
    if it.act == 0 then .next (it.finish it.s o.ctl { cls := 15 })
    else if it.legState != LegState.body then it.trap { cls := .ill }
    else
      let s := it.finish it.s o.ctl { upd := fun w => { w with fullsv := true }, cls := 15 }
      .next (s.modLegOf it fun l => { l with exitMark := true })) s

/-- ord of R144. -/
def ordF (x : W32) : Int := let m := (x.toNat % 2 ^ 31 : Nat); if x.getLsbD 31 then -(m : Int) else m

/-- One register of one lane matches, in the mode of VAR (R144). -/
def raccMatch (mode : Nat) (mask : W32) (ulp : Nat) (out guess : W32) : Bool :=
  match mode with
  | 0 => out == guess
  | 1 => (out ^^^ guess) &&& mask == 0
  | _ =>
    let n := (f32 out).isNan
    let m := (f32 guess).isNan
    (n && m) || (!n && !m && decide ((ordF out - ordF guess).natAbs ≤ ulp))

/-- `racc` (R144): the leg at the highest running position compares nothing, and so reads nothing (R268, R281). A leg that has completed it is issued again only to go on with a commit that met RETRY (R270). -/
def execRacc (o : Op3) (s : State) : Out :=
  meetingWord o.ctl 15 false (fun it =>
    let mask := if o.var == 1 then [(2, o.b, 1)] else []
    match it.wg.legOf it.w with
    | none => it.trap { cls := .ill }
    | some (r, p) =>
      if it.legState != LegState.body then it.trap { cls := .ill }
      else
      match (if p + 1 < r.n then (it.stallTrap mask [] []).or it.carryTrap else none) with
      | some t => it.trap t
      | none =>
      match it.regTrap mask with
      | some t => it.trap t
      | none =>
        let out := r.carryOf it.wp
        let read := it.carry
        let same : Bool :=
          match (r.leg (p + 1)).guess with
          | none => false
          | some gs => (lanesOf it.wp.live).all fun L => (List.range r.ccnt).all fun k =>
              raccMatch o.var.toNat (it.src 2 o.b .zx 0 L) (immNat o.b) ((read.getD k []).getD L 0) ((gs.getD k []).getD L 0)
        let s := it.modW fun w => { w with block := .racc, fullsv := true }
        let s := s.modLegOf it fun l => { l with state := .racc, out := out, matched := same }
        .next (s.decide it.core it.slot)) s

/-- `rfirst` (R145). -/
def execRfirst (o : Op3) (s : State) : Out :=
  meetingWord o.ctl 15 false (fun it =>
    if it.specLeg.isSome then it.stopLeg else
    match it.stallTrap [] [(0, o.d)] o.a.predNo with
    | some t => it.trap t
    | none =>
      match it.regTrap [(0, o.d, 1)] with
      | some t => it.trap t
      | none =>
        let m := maskOf fun L => laneBit it.act L && it.pred 1 o.a L
        let s := it.modW fun w => { w with block := .rfirst (regsOf (it.keysD o.d 1)), rfmask := m, fullsv := true }
        if (it.wg.legOf it.w).isSome then
          .next (s.endRfirst it.core it.slot [it.w] false)
        else .next (s.settle it.core it.slot)) s

end Sys2Proof.Machine
end

