-- ==== Sys2Proof/Machine/Vfs.lean ====
section
/-!
DEFINITION. Virtual functions as the host and the ostlers see them: queues and their notifies (R296), control blocks (R340), TIME
(R337), function-level resets (R362, R363), the counters of strings (R355), and register writes (R9).
-/
namespace Sys2Proof.Machine

/-! Queues (R296, R360) -/

def Vf.queue (v : Vf) (q : Nat) : HostQueue := v.queues.getD q { tail := 0, stopped := false }
def State.modQueue (s : State) (f q : Nat) (g : HostQueue → HostQueue) : State :=
  s.modVf f fun v => { v with queues := v.queues.modify q g }

/-- The address of a queue's descriptor. -/
def State.queueVa (s : State) (f q : Nat) : Nat := (s.vf f).qtab.toNat + 32 * q

/-- A queue stops: a header-only block of a class to FAULTREC of the top-level region, which raises the vector. -/
def State.stopQueue (s : State) (f q cls : Nat) : State :=
  (s.modQueue f q fun x => { x with stopped := true }).faultRec f none (trapHeader cls 16 0 0 (if cls == 13 then q else 0))

/-- How a read of queue memory fails: the class of the stop (R296, R360). -/
def State.queueFail (s : State) (f va n : Nat) : Option Nat :=
  (pieces va n).findSome? fun p =>
    match s.devXlate f (p.1 % 2 ^ 64) .read with
    | .error _ => some 3
    | .ok pa => if s.poison.contains (lineOf pa) then some 7 else none

/-- A 32-bit tail count extended against HEAD: the tail, or the queue stops (R296, R340). ENTRIES 0 disables the queue: `idle`
says what a count then does. -/
def State.extendTail (s : State) (f q t : Nat) (idle : State → Nat → State) : State :=
  let a := s.queueVa f q
  match s.queueFail f a 32 with
  | some cls => s.stopQueue f q cls
  | none =>
    let head := s.dev f (a + 16) 8
    let n := s.dev f (a + 8) 4
    let d := (t + 2 ^ 32 - head % 2 ^ 32) % 2 ^ 32
    if n == 0 then idle s (head + d)
    else if n < d then s.stopQueue f q 13
    else s.modQueue f q fun x => { x with tail := head + d }

/-- A write of a notify register; ignored while the queue is stopped or disabled, or a reset is in progress (R296, R362). -/
def State.notify (s : State) (f q t : Nat) : State :=
  if (s.vf f).flr || ((s.vf f).queue q).stopped then s else s.extendTail f q t fun s _ => s

/-- QUEUE_NOTIFY (R296). -/
def execQueueNotify (vf q : Nat) (t : W32) (s : State) : Out := .next (s.notify vf q t.toNat)

/-! PAUSE and TIME (R337, R340) -/

/-- The workgroups of a function that are resident. -/
def State.residentsOf (s : State) (f : Nat) : List (Nat × Nat × Workgroup) := s.residents.filter fun p => p.2.2.vf == f

/-- PAUSED (R340). -/
def State.paused (s : State) (f : Nat) : Bool := (s.vf f).pause && (s.residentsOf f).isEmpty

/-- Sets PAUSE: DISPSTOP, expired TIMERs, TIME frozen; records that stand on resume lists are held as well (R340). -/
def State.setPause (s : State) (f : Nat) : State :=
  if (s.vf f).pause then s else
    let t := s.timeOf f
    let s := s.modVf f fun v => { v with pause := true, time := BitVec.ofNat 64 t, timeAt := s.clock }
    let s : State := { s with
      dispstop := s.dispstop ||| BitVec.ofNat 64 (2 ^ f)
      cores := s.cores.map fun co => { co with resume := co.resume.map fun r => if r.vf == f then { r with held := true } else r } }
    (s.residentsOf f).foldl (fun s p => s.modWg p.1 p.2.1 fun g => { g with deadline := some 0 }) s

/-- Clears PAUSE: dispatch and TIME resume, held records are released; a reset in progress is complete (R340, R363). -/
def State.clearPause (s : State) (f : Nat) : State :=
  if !(s.vf f).pause then s else
    let s := s.modVf f fun v => { v with pause := false, timeAt := s.clock }
    let s := { s with
      dispstop := s.dispstop &&& ~~~ BitVec.ofNat 64 (2 ^ f)
      admits := if (s.vf f).flr then s.admits.filter fun a => a.vf != f else s.admits
      awaited := if (s.vf f).flr then s.awaited.filter fun a => a.vf != f else s.awaited
      launches := if (s.vf f).flr then s.launches.filter fun l => !(l.vf == f && l.endedAs.isSome) else s.launches
      cores := s.cores.map fun co => { co with resume := co.resume.map fun r => if r.vf == f then { r with held := false } else r } }
    if !(s.vf f).flr then s
    else s.modVf f fun v => { v with flr := false, nextLid := 1, lids := 0, queues := v.queues.map fun x => { x with stopped := false } }

/-- VF_PAUSE_WRITE (R340). -/
def execVfPauseWrite (vf : Nat) (pause : Bool) (s : State) : Out := .next (if pause then s.setPause vf else s.clearPause vf)

/-- A write of TIME, ignored unless the function is PAUSED (R337, R343). -/
def State.writeTime (s : State) (f : Nat) (v : W64) : State := if s.paused f then s.modVf f fun x => { x with time := v } else s

/-- VF_TIME_WRITE. -/
def execVfTimeWrite (vf : Nat) (v : W64) (s : State) : Out := .next (s.writeTime vf v)

/-- A write of QTAIL, ignored unless the function is PAUSED (R340). -/
def State.writeQtail (s : State) (f q t : Nat) : State :=
  if s.paused f then s.extendTail f q t fun s n => s.modQueue f q fun x => { x with tail := n } else s

/-- VF_QTAIL_WRITE. -/
def execVfQtailWrite (vf q : Nat) (t : W32) (s : State) : Out := .next (s.writeQtail vf q t.toNat)

/-! The control block as bytes (R340) -/

/-- The 128 bytes of a function's control block. -/
def State.ctlBytes (s : State) (f : Nat) : List Byte :=
  let v := s.vf f
  leBytes 8 (s.timeOf f) ++ leBytes 8 ((if v.pause then 1 else 0) + (if s.paused f then 2 else 0)) ++ leBytes 8 v.dirtyMap.toNat
    ++ leBytes 8 v.dirtyVa.toNat ++ leBytes 8 v.dirtyN.toNat ++ List.replicate 24 0
    ++ (List.range 16).flatMap fun q => leBytes 4 ((v.queue q).tail % 2 ^ 32)

def State.ctlRead (s : State) (f off n : Nat) : Nat := leNat (((s.ctlBytes f).drop off).take n)

/-- Writes bytes of a control block: every register that a byte falls on receives its merged value. DIRTYVA is a multiple of 64 KiB:
the low 16 bits of what is written are dropped (log 58). -/
def State.ctlWrite (s : State) (f off : Nat) (bs : List Byte) : State :=
  let old := s.ctlBytes f
  let new := old.take off ++ bs ++ old.drop (off + bs.length)
  let at_ (a n : Nat) : Nat := leNat ((new.drop a).take n)
  let hit (a n : Nat) : Bool := a < off + bs.length && off < a + n
  let s := if hit 0 8 then s.writeTime f (BitVec.ofNat 64 (at_ 0 8)) else s
  let s := if hit 16 8 then s.modVf f fun v => { v with dirtyMap := BitVec.ofNat 64 (at_ 16 8) } else s
  let s := if hit 24 8 then s.modVf f fun v => { v with dirtyVa := BitVec.ofNat 64 (at_ 24 8 / 65536 * 65536) } else s
  let s := if hit 32 4 then s.modVf f fun v => { v with dirtyN := BitVec.ofNat 32 (at_ 32 4) } else s
  let s := (List.range 16).foldl (fun s q => if hit (64 + 4 * q) 4 then s.writeQtail f q (at_ (64 + 4 * q) 4) else s) s
  if hit 8 1 then (if at_ 8 1 % 2 == 1 then s.setPause f else s.clearPause f) else s

/-! The counters of a string (R355) -/

/-- The 64 bytes of a string's counter block. -/
def State.counterBytes (s : State) (n : Nat) : List Byte :=
  let t := s.string n
  leBytes 8 t.nPasses.toNat ++ leBytes 8 t.nBall.toNat ++ leBytes 8 t.nSkip.toNat ++ leBytes 8 t.nReplay.toNat
    ++ leBytes 8 (t.ce.toNat * 2 ^ 32 + t.margin.toNat) ++ leBytes 8 t.nHigh.toNat ++ leBytes 8 t.nGated.toNat ++ leBytes 8 0

/-! Registers at physical addresses (R355, R362) -/

def State.regRead (s : State) (r : RegBlock) (n : Nat) : Nat :=
  match r with
  | .ctl f off => s.ctlRead f off n
  | .counter k off => leNat (((s.counterBytes k).drop off).take n)

def State.regWrite (s : State) (r : RegBlock) (bs : List Byte) : State :=
  match r with
  | .ctl f off => s.ctlWrite f off bs
  | .counter _ _ => s

/-- The registers receive the bytes that an L1 has written back (R223, R372). -/
def State.settleRegs (s : State) : State :=
  s.regQueue.foldl (fun s q => match s.regBlock q.1 with | some b => s.regWrite b q.2 | none => s)
    ({ s with regQueue := [] } : State)

/-- `n` bytes of a register block as core `c` reads them: its own dirty bytes over the registers. -/
def State.regBytes (s : State) (c pa : Nat) (b : RegBlock) (n : Nat) : List Byte :=
  ((leBytes n (s.regRead b n)).zipIdx).map fun x =>
    match (s.core c).l1At (lineOf (pa + x.2)) with
    | some l => if l.dirty.getLsbD ((pa + x.2) % 64) then l.data.getD ((pa + x.2) % 64) 0 else x.1
    | none => x.1

/-- A line of an L1 with bytes of a performed store put over its own, not dirty. -/
def L1Line.over (l : L1Line) (pa : Nat) (bs : List Byte) : L1Line :=
  bs.zipIdx.foldl (fun l x => if l.line == lineOf (pa + x.2) then l.put ((pa + x.2) % 64) x.1 false 0 0 else l) l

/-- A store of an access to registers: left dirty in L1 below device scope, else performed at once (R121, R372). -/
def State.regStore (s : State) (a : Access) (pa : Nat) (b : RegBlock) (bs : List Byte) : State :=
  if a.scope < 2 && a.cpol != 1 then s.store a (((List.range bs.length).map (pa + ·)).zip bs) else
  let s := s.regWrite b bs
  s.modCore a.core fun co => { co with l1 := co.l1.map (·.over pa bs) }

/-- Bytes of the register that begins at an offset of a control block; 0 for a reserved place. -/
def ctlWidth (off : Nat) : Nat :=
  if off < 32 && off % 8 == 0 then 8 else if off == 32 || (64 ≤ off && off < 128 && off % 4 == 0) then 4 else 0

/-- REGISTER_WRITE (R9, R10, R296, R340): a write to the register that begins at an offset of a function's BAR0; function 0 is the
physical function, f + 1 is VFID f. A read-only register and a reserved place ignore it. -/
def execRegisterWrite (fn off : Nat) (v : W64) (s : State) : Out :=
  if fn == 0 then
    let o := (off - 0x4_0000) % 128
    if 0x4_0000 ≤ off && off < 0x4_0000 + 128 * Config.nVfs && ctlWidth o != 0 then
      .next (s.ctlWrite ((off - 0x4_0000) / 128) o (leBytes (ctlWidth o) v.toNat))
    else .next s
  else if off == 0 then .next (s.modVf (fn - 1) fun x => { x with qtab := v })
  else if 0x1000 ≤ off && off < 0x1080 && off % 8 == 0 then .next (s.notify (fn - 1) ((off - 0x1000) / 8) (v.toNat % 2 ^ 32))
  else .next s

/-- A byte of a function's BAR0 as the host reads it (R296, R340, R355): QTAB of a virtual function, the control blocks and the counter
blocks of the physical one. What any other offset reads as is open. -/
def State.barByte (s : State) (fn off : Nat) : Byte :=
  let at_ (bs : List Byte) (i : Nat) : Byte := bs.getD i 0
  if fn == 0 && 0x4_0000 ≤ off && off < 0x4_0000 + 128 * Config.nVfs then
    at_ (s.ctlBytes ((off - 0x4_0000) / 128)) ((off - 0x4_0000) % 128)
  else if fn == 0 && 0x8_0000 ≤ off && off < 0x8_0000 + 64 * Config.nStrings then
    at_ (s.counterBytes ((off - 0x8_0000) / 64)) ((off - 0x8_0000) % 64)
  else if fn != 0 && off < 8 then at_ (leBytes 8 (s.vf (fn - 1)).qtab.toNat) off
  else Config.freeBits 8 s.free off

def State.barBytes (s : State) (fn off n : Nat) : List Byte := (List.range n).map fun i => s.barByte fn (off + i)

/-! Function-level reset (R362) -/

/-- FLR_REQUEST: PAUSE and DISPSTOP, notifies ignored, and a CLASS 12 block to every live core that is concerned, and to the performer. -/
def execFlrRequest (vf : Nat) (s : State) : Out :=
  if (s.vf vf).flr then .next s
  else
    let concerned (c : Nat) : Bool :=
      !(s.core c).lost && (c == s.lowestLive || (s.core c).resume.any (fun r => r.vf == vf)
        || (s.core c).slots.any (fun g => match g with | some g => g.vf == vf | none => false))
    let s' := { (s.setPause vf).modVf vf fun v => { v with flr := true } with
                dispstop := (s.setPause vf).dispstop ||| BitVec.ofNat 64 (2 ^ vf) }
    .next ((List.range s.cores.length).foldl (fun s c => if concerned c then s.headerBlock c (trapHeader 12 16 0 0 vf) else s) s')

end Sys2Proof.Machine
end

