-- ==== Sys2Proof/Machine/Driver.lean ====
section
/-!
DEFINITION. The driver space (R147 to R157), as a driver or an ostler issues it (R79, R249, R374).
-/
namespace Sys2Proof.Machine

/-! One issue of a driver or ostler word -/

/-- The stream whose word issues; `wg` is the driver's workgroup, `word` the engine command. -/
structure DIssue where
  s      : State
  core   : Nat
  slot   : Nat
  wg     : Option Workgroup
  pc     : W64
  d      : List W64
  ctr    : Nat
  word   : Option Instr := none

/-- A source register: d0 reads 0 (R22). -/
def DIssue.dreg (it : DIssue) (n : Nat) : W64 := if n == 0 then 0 else it.d.getD n 0

/-- A driver operand (R147). -/
def DIssue.val (it : DIssue) (o : Opnd) : W64 :=
  match o with
  | .dreg n => it.dreg n.toNat
  | .imm v => v.signExtend 64
  | _ => 0

/-- The register number of a class 2 operand. -/
def dNo : Opnd → Nat
  | .dreg n => n.toNat
  | _ => 0

/-- Parameter word k after a class 2 operand (R66). -/
def DIssue.param (it : DIssue) (o : Opnd) (k : Nat) : W64 := it.dreg (dNo o + k)

/-- Sets a d register; d0 discards (R22). -/
def setD (d : List W64) (n : Nat) (v : W64) : List W64 := if n == 0 then d else d.set n v

/-- The end of a word: a register, the next PC, the gap (R147). -/
def DIssue.goto (it : DIssue) (s : State) (c : Ctl) (dst : Nat) (v : W64) (pc : W64) : State :=
  let ready := s.clock + c.gap
  match it.wg with
  | some _ => s.modDrv it.core it.slot fun x => { x with d := setD x.d dst v, pc := pc, readyAt := ready, block := .none }
  | none => s.modOstler it.core fun x => { x with d := setD x.d dst v, pc := pc, readyAt := ready }

/-- The end of a word that writes operand D. -/
def DIssue.put (it : DIssue) (s : State) (c : Ctl) (o : Opnd) (v : W64) : Out := .next (it.goto s c (dNo o) v (it.pc + 12))

/-- The end of a word without a result. -/
def DIssue.done (it : DIssue) (s : State) (c : Ctl) : Out := .next (it.goto s c 0 0 (it.pc + 12))

/-- A trap of the stream, at the command's own PC where a waiting command has it (R229). -/
def DIssue.own (it : DIssue) (t : TrapInfo) : TrapInfo := if it.s.replay.isNone then t else { t with pc := some it.pc }

/-- A trap of the stream: a driver's halts its workgroup, an ostler's loses its core (R359). -/
def DIssue.trap (it : DIssue) (t : TrapInfo) : Out :=
  match it.wg with
  | some _ => .next (it.s.raiseTrap it.core it.slot 16 (it.own t))
  | none => .next (it.s.ostlerTrap it.core t.cls)

/-- The driver waits, and issues the word again later. -/
def DIssue.wait (it : DIssue) (s : State) (b : DBlock) : Out := .next (s.modDrv it.core it.slot fun x => { x with block := b })

/-- The command at a place of the open batch (16) or of a numbered one. -/
def Workgroup.cmdAt (g : Workgroup) (b i : Nat) : Option Cmd :=
  (if b == 16 then g.open_ else (g.batches.getD b { state := .idle, cmds := [] }).cmds)[i]?

/-- The waiting command at a place (R229). -/
def Workgroup.retryAt (g : Workgroup) (b i : Nat) : Option Retry :=
  (g.cmdAt b i).bind fun q => match q.pend with | .retry r => some r | _ => none

/-- The waiting command that runs now. -/
def State.replayed (s : State) (g : Workgroup) : Option Retry := s.replay.bind fun p => g.retryAt p.1 p.2

/-- A handle slot as a waiting command finds it: what it was bound to at issue, while it still is (R309). -/
def HSlot.still (old now : HSlot) : HSlot :=
  match old, now with
  | .bound e b _ _, .bound e' b' n r => if e == e' && b == b' then .bound e b n r else .empty
  | .bound _ _ _ _, _ => .empty
  | h, _ => h

/-- The stream in turn, if it is a driver or an ostler; a waiting command runs with the registers of its issue, and the slots that it
then had (R160). -/
def State.drvIssue (s : State) : Option DIssue :=
  match s.cur.agent with
  | .warp _ => none
  | .driver =>
    match s.wg? s.cur.core s.cur.slot with
    | none => none
    | some g =>
      match s.replayed g with
      | some r => some { s := s.bump, core := s.cur.core, slot := s.cur.slot, wg := some { g with slots := List.zipWith HSlot.still r.slots g.slots }, pc := r.pc,
                         d := r.d, ctr := s.free }
      | none => some { s := s.bump, core := s.cur.core, slot := s.cur.slot, wg := some g, pc := g.drv.pc, d := g.drv.d,
                       ctr := s.free }
  | .ostler =>
    let o := (s.core s.cur.core).ostler
    some { s := s.bump, core := s.cur.core, slot := s.cur.slot, wg := none, pc := o.pc, d := o.d, ctr := s.free }

/-- Runs a driver-space word: wrong stream, timed no-op (R64), else its body. -/
def drvWord (c : Ctl) (body : DIssue → Out) (s : State) : Out :=
  if s.warpTurn then s.wrongStream else
  match s.drvIssue with
  | none => .fault .noAgent
  | some it => if c.grd == 0xF then it.done it.s c else body it

/-- Runs a word that acts on the driver's workgroup. -/
def wgWord (c : Ctl) (body : DIssue → Workgroup → Out) (s : State) : Out :=
  drvWord c (fun it => match it.wg with | some g => body it g | none => .fault .noWorkgroup) s

/-! Arithmetic (R148, R149) -/

/-- A word that computes its result from its two sources. -/
def drvOp (o : Op3) (f : W64 → W64 → W64) (s : State) : Out :=
  drvWord o.ctl (fun it => it.put it.s o.ctl o.d (f (it.val o.a) (it.val o.b))) s

/-- The type of a driver source: VAR[0] set is signed (R148). -/
def dInt (o : Op3) (x : W64) : Int := if o.var.getLsbD 0 then x.toInt else x.toNat

def execDadd (o : Op3) (s : State) : Out := drvOp o (· + ·) s
def execDsub (o : Op3) (s : State) : Out := drvOp o (· - ·) s
def execDmul (o : Op3) (s : State) : Out := drvOp o (· * ·) s
def execDmulh (o : Op3) (s : State) : Out := drvOp o (fun a b => BitVec.ofInt 64 (dInt o a * dInt o b / 2 ^ 64)) s

/-- `ddiv`: quotient towards zero, or the remainder; b = 0 gives all ones, or a. -/
def ddivF (o : Op3) (a b : W64) : W64 :=
  if b == 0 then (if o.var.getLsbD 1 then a else BitVec.allOnes 64)
  else
    let x := dInt o a
    let y := dInt o b
    BitVec.ofInt 64 (if o.var.getLsbD 1 then Int.tmod x y else Int.tdiv x y)

def execDdiv (o : Op3) (s : State) : Out := drvOp o (ddivF o) s
def execDand (o : Op3) (s : State) : Out := drvOp o (· &&& ·) s
def execDor (o : Op3) (s : State) : Out := drvOp o (· ||| ·) s
def execDxor (o : Op3) (s : State) : Out := drvOp o (· ^^^ ·) s
def execDshl (o : Op3) (s : State) : Out := drvOp o (fun a b => if 64 ≤ b.toNat then 0 else a <<< b.toNat) s
def execDshr (o : Op3) (s : State) : Out := drvOp o (fun a b => if 64 ≤ b.toNat then 0 else a >>> b.toNat) s
def execDsar (o : Op3) (s : State) : Out := drvOp o (fun a b => a.sshiftRight (min b.toNat 63)) s
def execDset (o : Op3) (s : State) : Out := drvOp o (fun a b => if condInt o.cond (dInt o a) (dInt o b) then 1 else 0) s

def execDsel (o : Op3) (s : State) : Out :=
  drvWord o.ctl (fun it =>
    it.put it.s o.ctl o.d (if it.dreg (o.xt.toNat % 32) != 0 then it.val o.a else it.val o.b)) s

def execDmovi (o : OpL) (s : State) : Out :=
  drvWord o.ctl (fun it =>
    let v : W64 :=
      if o.var == 0 then o.imm.signExtend 64
      else if o.var == 1 then o.imm.zeroExtend 64
      else o.imm ++ ((it.val o.d).setWidth 32 : W32)
    it.put it.s o.ctl o.d v) s

/-- One step of `dhash`, and its last word (R149). -/
def dhashStep (a b : W64) : W64 := (a ^^^ b).rotateLeft 27 * 0x9FB2_1C65_1E98_DF25
def dhashFin (a : W64) : W64 := a ^^^ (a >>> 29)

def execDhash (o : Op3) (s : State) : Out := drvOp o (fun a b => if o.var == 1 then dhashFin a else dhashStep a b) s

/-- `dbit` (R149). -/
def dbitF (op : Nat) (a b : W64) : W64 :=
  let ones := (List.range 64).filter a.getLsbD
  match op with
  | 0 => BitVec.ofNat 64 ones.length
  | 1 => BitVec.ofNat 64 (match ones.getLast? with | some i => 63 - i | none => 64)
  | 2 => BitVec.ofNat 64 (ones.headD 64)
  | _ =>
    let p := min (b.toNat % 256) 64
    let l := min (b.toNat / 256 % 256) (64 - p)
    BitVec.ofNat 64 (a.toNat / 2 ^ p % 2 ^ l)

def execDbit (o : Op3) (s : State) : Out := drvOp o (dbitF o.var.toNat) s

/-! Special registers (R150, R374) -/

/-- The oldest word of a core's trap queue, and the queue without it (R331). -/
def popTrap : List (List W64) → Option (W64 × List (List W64))
  | [] => none
  | [] :: r => popTrap r
  | (w :: ws) :: r => some (w, if ws.isEmpty then r else ws :: r)

/-- What a driver or an ostler reads (R26, R27, R374). -/
def DIssue.sreg (it : DIssue) (id : Nat) : Nat :=
  let s := it.s
  let none32 := 0xFFFF_FFFF
  let wg (f : Workgroup → Nat) : Nat := match it.wg with | some g => f g | none => none32
  match id with
  | 0x03 => wg (·.hdr.warps)
  | 0x04 => wg (·.coords.1)
  | 0x05 => wg (·.coords.2.1)
  | 0x06 => wg (·.coords.2.2)
  | 0x07 => wg (·.extent.1)
  | 0x08 => wg (·.extent.2.1)
  | 0x09 => wg (·.extent.2.2)
  | 0x0B => match it.wg with | some g => s.timeOf g.vf | none => s.pfTime
  | 0x0C => (match it.wg with | some g => s.timeOf g.vf | none => s.pfTime) / 2 ^ 32
  | 0x0D => match it.wg with | some g => s.wtime g | none => 2 ^ 64 - 1
  | 0x0E => s.clock % 2 ^ 32
  | 0x0F => it.core
  | 0x10 => stringOf it.core
  | 0x14 => match it.wg with
      | some g => ((g.warps.filter fun w => !w.gone).foldl (fun (z : Byte) w => z ||| w.fstat) 0).toNat
      | none => 0
  | 0x17 => wg (·.lid)
  | 0x18 => wg (fun g => g.arg.toNat % 2 ^ 32)
  | 0x19 => wg (fun g => g.arg.toNat / 2 ^ 32)
  | 0x80 => wg (·.vf)
  | 0x81 => match it.wg with
      | some g => g.trapHdr.toNat
      | none => match popTrap (s.core it.core).trapq with | some (w, _) => w.toNat | none => 2 ^ 64 - 1
  | 0x82 => s.chargeReg (stringOf it.core)
  | 0x83 => s.strimb (stringOf it.core)
  | _ => none32

/-- `dsread`. -/
def execDsread (o : Op3) (s : State) : Out :=
  drvWord o.ctl (fun it =>
    let id := immNat o.a
    if 0x80 ≤ id && !s.privileged then it.trap { cls := .priv }
    else
      let s' := if id == 0x81 && it.wg.isNone then
          it.s.modCore it.core fun co => { co with trapq := match popTrap co.trapq with | some (_, q) => q | none => [] }
        else it.s
      it.put s' o.ctl o.d (BitVec.ofNat 64 (it.sreg id))) s

/-! Memory (R151, R152, R249) -/

/-- The translation context of the stream (R249): a function, or physical. -/
def DIssue.ctx (it : DIssue) : Option Nat :=
  match it.wg with
  | some g => some g.vf
  | none =>
    let c := (it.s.core it.core).ostler.ctx.toNat
    if 128 ≤ c then none else some (c % 64)

/-- The function with which an access is tagged: 64 stands for the physical function. -/
def DIssue.tag (it : DIssue) : Nat := (it.ctx).getD 64

/-- The register block that a physical address of an ostler in physical context falls in (R249, R355, R362). -/
def DIssue.regs (it : DIssue) (pa : Nat) : Option RegBlock := if it.ctx == none then it.s.regBlock pa else none

/-- A `draint` of the ostler's translation context holds back its requests (R203); a held function's own agents do not issue. -/
def DIssue.heldBack (it : DIssue) : Bool := match it.ctx with | some f => (it.s.vf f).heldBack | none => false

/-- What follows a memory word's checks. -/
inductive Gate1 where
  | go (pa : Nat)
  | stop (r : Out)

/-- An ostler access that fails (R249): its block, all ones to D, the next word. -/
def DIssue.absorb (it : DIssue) (c : Ctl) (dst : Opnd) : Out :=
  it.put (it.s.headerBlock it.core (trapHeader 3 16 0 0 0)) c dst (BitVec.allOnes 64)

/-- The checks of one global access of a driver or ostler (R120, R151, R229, R249); `dst` receives all ones when an ostler's fails.
A line for which `hit` holds is taken from the core's own L1, and meets no pin (R121). -/
def DIssue.gate (it : DIssue) (c : Ctl) (va n : Nat) (need : Need) (dst : Opnd) (hit : Nat → Bool := fun _ => false) : Gate1 :=
  if va % n != 0 then .stop (it.trap { cls := .align, x := va })
  else if it.heldBack && it.wg.isNone then .stop (.next (it.s.modOstler it.core fun x => { x with readyAt := it.s.clock + 1 }))
  else
    match it.s.xlate it.core it.ctx va need with
    | .error e =>
      match it.wg with
      | none => .stop (it.absorb c dst)
      | some g =>
        match e with
        | .addr => .stop (it.trap { cls := .addr, x := va })
        | .tran => .stop (it.wait it.s (.tran g.vf (va / 65536 * 65536)))
    | .ok pa =>
      match (if hit (lineOf pa) then none else it.s.holder it.core (lineOf pa)) with
      | none => .go pa
      | some _ =>
        match it.wg with
        | none => .stop (.next (it.s.modOstler it.core fun x => { x with readyAt := it.s.clock + 1 }))
        | some g =>
          let since := match g.drv.block with | .pin _ _ t => t | _ => it.s.clock
          .stop (it.wait it.s (.pin (lineOf pa) (va / 64 * 64) since))

/-- The global address of a driver memory word. -/
def DIssue.addr (it : DIssue) (o : Op3) : Nat := (it.val o.a + it.val o.b).toNat

def DIssue.access (it : DIssue) (o : Op3) : Access :=
  { core := it.core, slot := if it.wg.isSome then it.slot else 8, vf := it.tag, scope := o.scope, sid := o.sid.toNat,
    cpol := o.cpol }

/-- The acquire and the release that a driver's access carries (R223). -/
def DIssue.acquires (it : DIssue) (p : Bool) (s : State) : State := if p then s.acquireDev it.core else s
def DIssue.releases (it : DIssue) (p : Bool) (sid : Nat) (s : State) : State :=
  if p then (s.releaseDev it.core (BitVec.ofNat 16 (2 ^ sid))).settleRegs else s

/-- The core's own L1 serves a load of a line (R121, R151); it holds no copy of registers to serve. -/
def DIssue.fromL1 (it : DIssue) (o : Op3) (ln : Nat) : Bool :=
  (it.s.missing (it.access o) [ln]).isEmpty && (it.regs (64 * ln)).isNone

/-- The register form of a driver load (R151). -/
def dldForm (f n : Nat) : W64 :=
  match f with
  | 0 => (BitVec.ofNat 8 n).signExtend 64
  | 2 => (BitVec.ofNat 16 n).signExtend 64
  | _ => BitVec.ofNat 64 n

/-- `dld`. -/
def execDld (o : Op3) (s : State) : Out :=
  drvWord o.ctl (fun it =>
    let n := fmtBytes o.typ
    let va := it.addr o
    match it.gate o.ctl va n .read o.d (it.fromL1 o) with
    | .stop r => r
    | .go pa =>
      match it.regs pa with
      | some b =>
        it.put (it.acquires (o.rnd == 1 && 2 ≤ o.scope) it.s) o.ctl o.d (dldForm o.typ (leNat (it.s.regBytes it.core pa b n)))
      | none =>
      let acc := it.access o
      let as := (List.range n).map (pa + ·)
      if it.s.accPoison acc as then it.trap { cls := .eccu, x := va / 64 * 64 }
      else
        let v := leNat (as.map (it.s.loadByte acc it.s.kvRanges))
        let s := (it.s.xlateFill it.core it.ctx va).afterRead acc [lineOf pa]
        it.put (it.acquires (o.rnd == 1 && 2 ≤ o.scope) s) o.ctl o.d (dldForm o.typ v)) s

/-- Dirty tracking of a driver's or translated ostler's write. -/
def DIssue.track (it : DIssue) (s : State) (va : Nat) : State := match it.ctx with | some f => s.track f va | none => s

/-- An ostler's write of DSTATE 3 while the function is being reset kills the launch, without its signal (R363). -/
def State.dstateKill (s : State) (bs : List (Nat × Byte)) : State :=
  s.launches.foldl (fun s l =>
    let hit := match s.devXlate l.vf ((l.image.toNat + l.dtab s + 48) % 2 ^ 64) .read with
      | .ok pa => bs.any fun b => b.1 == pa && b.2.toNat % 4 == 3
      | .error _ => false
    if l.endedAs == none && (s.vf l.vf).flr && hit then s.killLaunches false [l] else s) s

/-- What an ostler's store sets off. -/
def DIssue.watch (it : DIssue) (s : State) (bs : List (Nat × Byte)) : State := if it.wg.isNone then s.dstateKill bs else s

/-- `dst`. -/
def execDst (o : Op3) (s : State) : Out :=
  drvWord o.ctl (fun it =>
    let n := fmtBytes o.typ
    let va := it.addr o
    match it.gate o.ctl va n .write .zero with
    | .stop r => r
    | .go pa =>
      match it.regs pa with
      | some b =>
        it.done ((it.releases (o.rnd == 1 && 2 ≤ o.scope) o.sid.toNat it.s).regStore (it.access o) pa b
          (leBytes n (it.val o.d).toNat)) o.ctl
      | none =>
      let s := it.releases (o.rnd == 1 && 2 ≤ o.scope) o.sid.toNat (it.s.xlateFill it.core it.ctx va)
      let bs := ((List.range n).map (pa + ·)).zip (leBytes n (it.val o.d).toNat)
      it.done (it.watch (it.track (s.storeHaz (it.access o) bs) va) bs) o.ctl) s

/-- `datom`. -/
def execDatom (o : Op3) (s : State) : Out :=
  drvWord o.ctl (fun it =>
    let n := fmtBytes o.typ
    let va := it.addr o
    match it.gate o.ctl va n .rw o.d with
    | .stop r => r
    | .go pa =>
      let ar := o.rnd == 2 && 2 ≤ o.scope
      let new (old : Nat) : Nat := atomicNew o.aop o.sgn (8 * n) old ((it.val o.d).toNat % 2 ^ (8 * n))
        ((it.dreg (dNo o.d + 1)).toNat % 2 ^ (8 * n))
      match it.regs pa with
      | some b =>
        let s := it.releases ar o.sid.toNat it.s
        let old := leNat (s.regBytes it.core pa b n)
        it.put (it.acquires ar (s.regStore { it.access o with cpol := 0 } pa b (leBytes n (new old)))) o.ctl o.d (BitVec.ofNat 64 old)
      | none =>
      let acc := { it.access o with cpol := if o.cpol == 1 then 0 else o.cpol }
      let as := (List.range n).map (pa + ·)
      if it.s.accPoison acc as then it.trap { cls := .eccu, x := va / 64 * 64 }
      else
        let s := it.releases ar o.sid.toNat (it.s.xlateFill it.core it.ctx va)
        let old := leNat (as.map (s.loadByte acc s.kvRanges))
        let bs := as.zip (leBytes n (new old))
        let s := it.acquires ar (s.storeHaz acc bs)
        it.put (it.watch (it.track s va) bs) o.ctl o.d (BitVec.ofNat 64 old)) s

/-- Where a driver's scratchpad word accesses: physical address, and the address as a trap reports it (R120, R151, R375). -/
def scrGate (it : DIssue) (g : Workgroup) (o : Op3) (write : Bool) : Except TrapInfo (Nat × Nat) :=
  let n := fmtBytes o.typ
  let ea : Int := (if o.a.isSlot then 0 else ((it.val o.a).toNat : Int)) + (it.val o.b).toInt
  if o.a.isSlot && !g.hdr.objects then .error { cls := .ill }
  else if ea % (n : Int) != 0 then .error { cls := .align, x := trapAddr ea }
  else
    let r : Option (Nat × Nat) :=
      match o.a with
      | .slot k =>
        match g.slots.getD k.toNat .empty with
        | .bound _ base size rdo => if write && rdo then none else some (base, size)
        | _ => none
      | _ => some (g.winBase, g.hdr.scratch)
    match r with
    | some (base, size) =>
      if 0 ≤ ea && ea + n ≤ size then .ok (base + ea.toNat, trapAddr ea) else .error { cls := .addr, x := trapAddr ea }
    | none => .error { cls := .addr, x := trapAddr ea }

/-- `dlds`. -/
def execDlds (o : Op3) (s : State) : Out :=
  wgWord o.ctl (fun it g =>
    match scrGate it g o false with
    | .error t => it.trap t
    | .ok (a, ea) =>
      let as := (List.range (fmtBytes o.typ)).map (a + ·)
      match it.s.scrBad it.core as with
      | some b => .next (it.s.scratchError it.core it.slot 16 b ea)
      | none => it.put it.s o.ctl o.d (dldForm o.typ (leNat (as.map (it.s.scrHaz it.core (it.slot, 16)))))) s

/-- `dsts`. -/
def execDsts (o : Op3) (s : State) : Out :=
  wgWord o.ctl (fun it g =>
    match scrGate it g o true with
    | .error t => it.trap t
    | .ok (a, ea) =>
      let n := fmtBytes o.typ
      let bs := ((List.range n).map (a + ·)).zip (leBytes n (it.val o.d).toNat)
      match it.s.scrBad it.core (partialBytes bs) with
      | some b => .next (it.s.scratchError it.core it.slot 16 b ea)
      | none => it.done (it.s.scrWriteHaz it.core (it.slot, 16) bs) o.ctl) s

/-- `dfence` (R153). -/
def execDfence (o : Op3) (s : State) : Out :=
  drvWord o.ctl (fun it =>
    let m := BitVec.ofNat 16 (immNat o.b) ||| BitVec.ofNat 16 (2 ^ o.sid.toNat)
    it.done (if 2 ≤ o.scope then ((it.s.releaseDev it.core m).settleRegs).acquireDev it.core else it.s) o.ctl) s

/-! Control (R154, R155) -/

/-- `dbra`. -/
def execDbra (o : OpL) (s : State) : Out :=
  drvWord o.ctl (fun it =>
    let mode := o.xt.toNat / 32
    let c := it.dreg (o.xt.toNat % 32)
    let taken := mode == 0 || (mode == 1 && c != 0) || (mode == 2 && c == 0)
    .next (it.goto it.s o.ctl 0 0 (if taken then it.pc + branchOff o.imm else it.pc + 12))) s

/-- `dcall`. -/
def execDcall (o : OpL) (s : State) : Out :=
  drvWord o.ctl (fun it => .next (it.goto it.s o.ctl (o.xt.toNat % 32) (it.pc + 12) (it.pc + branchOff o.imm))) s

/-- `dret`. -/
def execDret (o : Op3) (s : State) : Out :=
  drvWord o.ctl (fun it =>
    let t := it.val o.a
    if t.toNat % 4 != 0 then it.trap { cls := .align, x := t.toNat } else .next (it.goto it.s o.ctl 0 0 t)) s

/-- A slot whose command's batch completes (R196). -/
def HSlot.settle (n : Nat) (h : HSlot) : HSlot :=
  match h with
  | .pending b dest =>
    if b != n then h else match dest with | some x => .bound x.1 x.2.1 x.2.2.1 x.2.2.2 | none => .empty
  | _ => h

/-- Every batch is complete, the open one included, closed as `dend` closes it (R155). -/
def Workgroup.quiet (g : Workgroup) (ran : Nat) : Bool :=
  !cmdsPending ran g.open_ && g.batches.all (fun b => b.state != .inflight)

/-- `dend`: the open batch is closed and complete, its slots settled. -/
def execDend (o : Op3) (s : State) : Out :=
  wgWord o.ctl (fun it g =>
    if !g.quiet (it.s.core it.core).passesRun then it.wait it.s .dend
    else
      let s := it.goto it.s o.ctl 0 0 (it.pc + 12)
      let s := s.modWg it.core it.slot fun g =>
        { g with open_ := [], evq := [], hazards := [], slots := g.slots.map (HSlot.settle 16),
                 batches := List.replicate 16 { state := .idle, cmds := [] },
                 drv := { g.drv with ended := true } }
      let s := s.modWg it.core it.slot fun g => g.leaveAll it.s.clock 16
      .next (s.settle it.core it.slot)) s

/-! The decision queue and barriers (R156, R157) -/

/-- `dqpush`: gangs that wait on the empty queue may issue again. -/
def execDqpush (o : Op3) (s : State) : Out :=
  wgWord o.ctl (fun it g =>
    if 16 ≤ g.dq.length then it.wait it.s .push
    else
      let v := it.val o.a
      let s := it.goto it.s o.ctl 0 0 (it.pc + 12)
      let wake (w : Warp) : Warp :=
        { w with waits := w.waits.map fun q => if q.kind == .dqpop then { q with held := false } else q
                 readySince := if w.pick.isNone then it.s.clock else w.readySince }
      .next (s.modWg it.core it.slot fun g =>
        ({ g with dq := g.dq ++ [v], dqTail := g.dqTail + 1, warps := g.warps.map wake } : Workgroup).retire)) s

/-- `dbar` and `dbar.arv`. -/
def dbarOp (o : Op3) (arv : Bool) (s : State) : Out :=
  wgWord o.ctl (fun it g =>
    let b := immNat o.a
    if !(g.bars.getD b default).declared then it.trap { cls := .ill }
    else if g.hasArrived b 16 then it.wait it.s (.barAgain b arv)
    else
      let s := if arv then it.goto it.s o.ctl 0 0 (it.pc + 12)
        else it.s.modDrv it.core it.slot fun x => { x with block := .bar b, readyAt := it.s.clock + o.ctl.gap }
      .next (s.modWg it.core it.slot fun g => g.arrive it.s.clock b 16)) s

def execDbar (o : Op3) (s : State) : Out := dbarOp o false s
def execDbarArv (o : Op3) (s : State) : Out := dbarOp o true s

end Sys2Proof.Machine
end

