-- ==== Sys2Proof/Machine/Engine.lean ====
section
/-!
DEFINITION. What all engine commands share (R158 to R161, R177, R181): scratchpad descriptors, tiles, global accesses, the open batch.
A command takes its effect when it issues, which R160 allows, or when the lines that it needs are granted; its batch completes later.
-/
namespace Sys2Proof.Machine

/-! Scratchpad descriptors (R159) -/

def spdAddr (v : W64) : Nat := bitsOf v.toNat 19 0
def spdPitch (v : W64) : Nat := bitsOf v.toNat 31 20
def spdSlot (v : W64) : Nat := bitsOf v.toNat 58 56
def spdObj (v : W64) : Bool := v.getLsbD 62

/-- Reserved bits are zero, ADDR and PITCH are multiples of 8, and SLOT is zero without OBJ. -/
def spdFixed (v : W64) : Bool :=
  !v.getLsbD 63 && bitsOf v.toNat 61 59 == 0 && bitsOf v.toNat 55 32 == 0 && spdAddr v % 8 == 0 && spdPitch v % 8 == 0
    && (spdObj v || spdSlot v == 0)

/-- What an SPD names: a trap at issue; an empty or pending slot (status 4); or the physical address of its ADDR, the base of its
window or object, and the bytes of it. -/
inductive SpdRes where
  | trap (t : TrapInfo)
  | stale
  | at_ (pa org size : Nat)

/-- The window or the object of an SPD, after the checks of its fixed part. -/
def spdBase (g : Workgroup) (v : W64) (write : Bool) : SpdRes :=
  if !spdFixed v then .trap { cls := .addr, x := v.toNat }
  else if spdObj v then
    if !g.hdr.objects then .trap { cls := .ill }
    else
      match g.slots.getD (spdSlot v) .empty with
      | .bound _ base size rdo =>
        if write && rdo then .trap { cls := .addr, x := v.toNat } else .at_ (base + spdAddr v) base size
      | _ => .stale
  else .at_ (g.winBase + spdAddr v) g.winBase g.hdr.scratch

/-- The end of a region, as an offset: `rows` rows of `len` bytes, `pitch` apart. -/
def regionEnd (addr rows len pitch : Nat) : Nat := if rows == 0 || len == 0 then 0 else addr + (rows - 1) * pitch + len

/-- An SPD with its region checked (R159). -/
def spd (g : Workgroup) (v : W64) (rows len pitch : Nat) (write : Bool) : SpdRes :=
  match spdBase g v write with
  | .at_ pa org size =>
    if (write && 1 < rows && pitch < len) || size < regionEnd (spdAddr v) rows len pitch then .trap { cls := .addr, x := v.toNat }
    else .at_ pa org size
  | r => r

/-- The rows of a region as physical ranges. -/
def rowsOf (pa rows len pitch : Nat) : List (Nat × Nat) := (List.range rows).map fun i => (pa + i * pitch, len)

/-- The first trap among some descriptors, in order. -/
def spdTrap (rs : List SpdRes) : Option TrapInfo := rs.findSome? fun r => match r with | .trap t => some t | _ => none

/-- Some descriptor names an empty slot. -/
def spdStale (rs : List SpdRes) : Bool := rs.any fun r => match r with | .stale => true | _ => false

def SpdRes.pa : SpdRes → Nat
  | .at_ pa _ _ => pa
  | _ => 0

def SpdRes.org : SpdRes → Nat
  | .at_ _ org _ => org
  | _ => 0

/-! Tiles (R24) -/

def tileNo : Opnd → Nat
  | .tile n => n.toNat
  | _ => 0

/-- A tile beyond the header's count is REG, kind 1 (R24, R375). -/
def tileTrap (g : Workgroup) (ts : List Nat) : Option TrapInfo :=
  (ts.find? fun t => g.tiles.length ≤ t).map fun t => { cls := .reg, x := regX 1 t }

def Workgroup.tile (g : Workgroup) (t : Nat) : Tile := g.tiles.getD t freshTile

def State.tile (s : State) (c k t : Nat) : Tile := match s.wg? c k with | some g => g.tile t | none => freshTile

def State.setTile (s : State) (c k t : Nat) (x : Tile) : State :=
  s.modWg c k fun g => { g with tiles := g.tiles.modify t fun _ => x }

/-! Commands -/

/-- What one command does once its checks have passed. -/
structure Work where
  cls    : Nat
  /-- scratchpad ranges read, with the base of their window or object; operands that it names and need not read (R257) -/
  reads  : List (Nat × Nat × Nat) := []
  kept   : List (Nat × Nat) := []
  writes : List (Nat × Nat) := []
  gwrites : List (Nat × Nat) := []
  tiles  : List Nat := []
  wtiles : List Nat := []
  fresh  : List Nat := []
  fcells : List Nat := []
  rows   : List Nat := []
  sat    : List Nat := []
  vreg   : Option (Nat × Nat) := none
  /-- the leg of a tagged append (R276) -/
  leg    : Option Nat := none
  attn   : List (Nat × Nat) := []
  kv     : List (Nat × Nat) := []
  move   : Option (Nat × Nat × Nat × Nat) := none
  pend   : Pend := .none
  /-- matrix passes that the command starts, if it reads its operands (R256) -/
  passes : Nat := 0
  /-- the effect: new state, status, DATA in the record's place -/
  run    : State → State × Nat × Nat

/-- The regions of a command, in a batch. -/
def Work.haz (w : Work) (b : Nat) : Haz :=
  { batch := b, cls := w.cls, reads := w.kept ++ w.reads.map fun x => (x.1, x.2.1), writes := w.writes, gwrites := w.gwrites, tiles := w.tiles,
    wtiles := w.wtiles, fresh := w.fresh, fcells := w.fcells, rows := w.rows, sat := w.sat, vreg := w.vreg, attn := w.attn, kv := w.kv, move := w.move }

/-- Tiles that another batch than b, not waited for, also names (R33). -/
def Workgroup.busyTiles (g : Workgroup) (b : Nat) (ts : List Nat) : List Nat :=
  ts.filter fun t => g.hazards.any fun h => h.batch != b && h.tiles.contains t

/-- The commands of other batches than b, not waited for, that name some tiles (R33, R160). -/
def Workgroup.onTiles (g : Workgroup) (b : Nat) (ts : List Nat) : List Haz :=
  g.hazards.filter fun h => h.batch != b && h.tiles.any ts.contains

/-- Some tiles become unspecified. -/
def State.freeTiles (s : State) (c k : Nat) (ts : List Nat) : State :=
  ts.foldl (fun s t => s.setTile c k t (freeTile s.free t)) s.bump

/-- A command joins the open batch (R158). -/
def Workgroup.joinBatch (g : Workgroup) (q : Cmd) (h : Haz) : Workgroup :=
  { g with open_ := g.open_ ++ [q], hazards := g.hazards ++ [h] }

def Workgroup.hazOf (g : Workgroup) (b i : Nat) : Haz := ((g.hazAt b i).bind fun n => g.hazards[n]?).getD { batch := b }

/-- Changes the regions of command i of batch b. -/
def Workgroup.modHaz (g : Workgroup) (b i : Nat) (f : Haz → Haz) : Workgroup :=
  match g.hazAt b i with
  | some n => { g with hazards := g.hazards.modify n f }
  | none => g

/-- The waiting commands of batch b, each with the place of its regions and its class. -/
def Workgroup.waiting (g : Workgroup) (b : Nat) : List (Nat × Nat × Nat) :=
  let cs := if b == 16 then g.open_ else (g.batches.getD b { state := .idle, cmds := [] }).cmds
  (List.range cs.length).filterMap fun j =>
    match cs[j]?, g.hazAt b j with
    | some q, some n => match q.pend with | .retry _ => some (b, n, q.engine) | _ => none
    | _, _ => none

/-- A command issued before command i of batch b waits and goes first: one of the batch that names one of some tiles (R161), or one
of the same class that acts on pages, weight sets or objects, which take effect in issue order (R182; log 25). -/
def Workgroup.orderWaits (g : Workgroup) (b i cls : Nat) (ts : List Nat) : Bool :=
  let me := (g.hazAt b i).getD g.hazards.length
  ((List.range 17).flatMap g.waiting).any fun w =>
    w.2.1 < me && ((w.1 == b && ((g.hazards[w.2.1]?).elim [] (·.tiles)).any ts.contains)
      || (3 ≤ cls && cls ≤ 5 && w.2.2 == cls))

/-- A command issued before command i of batch b waits, and has a region in a range of scratchpad (R309). -/
def Workgroup.heldOn (g : Workgroup) (b i base size : Nat) : Bool :=
  let me := (g.hazAt b i).getD g.hazards.length
  ((List.range 17).flatMap g.waiting).any fun w =>
    w.2.1 < me && ((g.hazards[w.2.1]?).elim false fun h => rangesMeet (h.reads ++ h.writes) [(base, size)])

/-- An operand word with an uncorrectable error (R252): its address, and the address in its window or object. -/
def State.badOperand (s : State) (c : Nat) (rs : List (Nat × Nat × Nat)) : Option (Nat × Nat) :=
  if (s.core c).badWords.isEmpty then none else
  rs.findSome? fun r => (s.scrBad c ((List.range r.2.1).map (r.1 + ·))).map fun b => (b, b - r.2.2)

/-- A word of which a command's writes take a part, with an uncorrectable error (R251). -/
def State.badPart (s : State) (c : Nat) (rs : List (Nat × Nat)) : Option (Nat × Nat) :=
  if (s.core c).badWords.isEmpty then none else
  (s.scrBad c (partialBytes ((rs.flatMap fun r => (List.range r.2).map (r.1 + ·)).map fun a => (a, 0)))).map fun b =>
    (b, b - (match (s.core c).areaOf b with
      | some o => o.base
      | none => (((s.core c).windowOwner b).bind (s.wg? c)).elim 0 (·.winBase)))

/-- The place of the command that runs: the end of the open batch, or that of a waiting command. -/
def DIssue.place (it : DIssue) (g : Workgroup) : Nat × Nat := it.s.replay.getD (16, g.open_.length)

/-- The result of one more open command, and its regions. -/
def State.lastOpen (s : State) (c k n : Nat) : Option (Workgroup × Cmd × Haz) :=
  match s.wg? c k with
  | none => none
  | some g =>
    match g.open_[n]?, g.hazards.getLast? with
    | some q, some h => some (g, q, h)
    | _, _ => none

/-- A slot that a waiting command will bind is pending (R196). -/
def slotWaits (old new : HSlot) : HSlot := match old, new with | .empty, .pending b _ => .pending b none | _, _ => old

/-- A command that meets RETRY on a line, or waits for an earlier command of its batch, waits in its batch while the driver goes on
(R158, R229; log 25). `r` is what it would do now: a trap is taken at once, and the regions are those that it would have. -/
def DIssue.hold (it : DIssue) (g : Workgroup) (line : Option (Nat × Nat)) (r : Out) (leg : Option Nat := none) : Out :=
  let old := it.s.replayed g
  let keep (q : Retry) : Retry :=
    { q with line := line, since := match q.line with | some _ => q.since | none => it.s.clock, tried := it.s.clock + 1 }
  match it.s.replay, old with
  | some p, some q => .next (it.s.modWg it.core it.slot fun g => g.modCmd p.1 p.2 fun x => { x with pend := .retry (keep q) })
  | _, _ =>
    match r, it.word with
    | .next t, some i =>
      match t.lastOpen it.core it.slot g.open_.length with
      | none => r
      | some (h, q, z) =>
        let w : Retry := { word := i, pc := it.pc, d := it.d, slots := g.slots, line, since := it.s.clock,
                           tried := it.s.clock + 1, leg, trim := false }
        .next (it.s.modWg it.core it.slot fun g =>
          ({ g with drv := h.drv, slots := List.zipWith slotWaits g.slots h.slots } : Workgroup).joinBatch
            { engine := q.engine, status := 0, data := 0, pend := .retry w } { z with waiting := true })
    | _, _ => r

/-- The effect of a command, and its place in its batch. A command of another batch that names a tile which this one writes loses its
results (R160), and so does that tile, for both (R33). A command that has read its operands has finished when its passes have run
(R255). -/
def DIssue.runNow (it : DIssue) (g : Workgroup) (c : Ctl) (w : Work) : Out :=
  let p := it.place g
  match it.s.badOperand it.core w.reads with
  | some (b, x) => .next (it.s.scratchError it.core it.slot 16 b x (it.own { cls := .eccu }).pc)
  | none =>
    let busy := g.busyTiles p.1 w.tiles
    let s := ((g.onTiles p.1 w.wtiles).foldl (fun s h => s.spoil it.core it.slot h) it.s).freeTiles it.core it.slot busy
    let s := s.modCore it.core fun co => { co with passes := co.passes + w.passes }
    let s := if it.s.replay.isNone then s else s.modWg it.core it.slot fun g => g.modHaz p.1 p.2 fun _ => { batch := p.1 }
    let r := w.run s
    let bad := if w.cls == 0 || w.cls == 2 || r.2.1 == 0 then it.s.badPart it.core w.writes else none
    match bad with
    | some (b, x) => .next (it.s.scratchError it.core it.slot 16 b x (it.own { cls := .eccu }).pc)
    | none =>
      let s := r.1.freeTiles it.core it.slot busy
      let co := it.s.core it.core
      let q : Cmd := { engine := w.cls, status := r.2.1, data := r.2.2, pend := w.pend,
                       passAt := if w.passes == 0 then 0 else co.passesRun + co.passes + w.passes }
      let h := { w.haz p.1 with move := if r.2.1 == 8 then w.move else none }
      if it.s.replay.isNone then it.done (s.modWg it.core it.slot fun g => g.joinBatch q h) c
      else
        let spoiled := (g.hazOf p.1 p.2).spoiled
        let s := s.modWg it.core it.slot fun g => (g.modCmd p.1 p.2 fun _ => q).modHaz p.1 p.2 fun _ => h
        .next (if spoiled then s.spoil it.core it.slot h else s)

/-- A command runs, unless an earlier one that goes before it still waits. -/
def DIssue.run (it : DIssue) (g : Workgroup) (c : Ctl) (w : Work) : Out :=
  let p := it.place g
  if g.orderWaits p.1 p.2 w.cls w.tiles then it.hold g none (it.runNow g c w) w.leg else it.runNow g c w

/-- A command that completes with a status and changes nothing else; the tiles that it names are named (R33). -/
def DIssue.only (it : DIssue) (g : Workgroup) (c : Ctl) (cls st data : Nat) (tiles : List Nat := []) : Out :=
  it.run g c { cls := cls, tiles := tiles, run := fun s => (s, st, data) }

/-- Runs an engine command: as the driver issues it, or as one that has waited. -/
def cmdWord (i : Instr) (c : Ctl) (body : DIssue → Workgroup → Out) (s : State) : Out :=
  let r := wgWord c (fun it g => body { it with word := some i } g) s
  if s.replay.isNone then r
  else match r with
    | .next t => .next { t with replay := none }
    | r => r

/-- Bit k of a record's DATA field. -/
def dataBit (p : Bool) (k : Nat) : Nat := if p then 2 ^ k else 0

/-- Bytes of scratchpad as a command reads them (R160, R161). -/
def State.scrBytes (s : State) (c a n : Nat) : List Byte := (List.range n).map fun i => s.scrHaz c engineReader (a + i)

def State.scrNat (s : State) (c a n : Nat) : Nat := leNat (s.scrBytes c a n)

/-- Bytes at consecutive addresses. -/
def bytesAt (a : Nat) (bs : List Byte) : List (Nat × Byte) := ((List.range bs.length).map (a + ·)).zip bs

/-! Global accesses of commands (R173, R181, R229, R231, R253) -/

/-- A piece of a command's global access, inside one line: virtual address, bytes, need. -/
structure Touch where
  va   : Nat
  n    : Nat
  need : Need
  deriving DecidableEq, Repr, Inhabited

/-- A range cut into pieces; addresses wrap at 2^64. -/
def touches (va n : Nat) (need : Need) : List Touch := (pieces va n).map fun p => { va := p.1 % 2 ^ 64, n := p.2, need }

/-- The physical address of a piece. -/
def State.touchPa (s : State) (a : Access) (t : Touch) : Option Nat :=
  match s.translate a.core a.vf t.va t.need with
  | .ok pa => some pa
  | .error _ => none

/-- The first failure among some pieces, in order: status and address (R181); 7 where another module cannot be reached (R339). -/
def State.touchFail (s : State) (a : Access) (ts : List Touch) : Option (Nat × Nat) :=
  ts.findSome? fun t =>
    match s.touchPa a t with
    | none => some (if s.farCut a.core a.vf t.va t.need then (7, 0) else (2, t.va))
    | some pa => if t.need != .write && s.accPoison a ((List.range t.n).map (pa + ·)) then some (3, t.va) else none

/-- The first piece that another core holds pinned: line, its address. A read that the core's own L1 serves meets no pin (R121). -/
def State.touchPin (s : State) (a : Access) (ts : List Touch) : Option (Nat × Nat) :=
  ts.findSome? fun t =>
    match s.touchPa a t with
    | some pa => if (t.need != .read || !(s.missing a [lineOf pa]).isEmpty) && (s.holder a.core (lineOf pa)).isSome then some (lineOf pa, t.va / 64 * 64) else none
    | none => none

/-- The physical bytes of some pieces. -/
def State.touchBytes (s : State) (a : Access) (ts : List Touch) : List Nat :=
  ts.flatMap fun t => match s.touchPa a t with | some pa => (List.range t.n).map (pa + ·) | none => []

/-- The physical ranges of some pieces. -/
def State.touchRanges (s : State) (a : Access) (ts : List Touch) : List (Nat × Nat) :=
  ts.filterMap fun t => (s.touchPa a t).map fun pa => (pa, t.n)

/-- TLB entries and L1 copies that reads of some pieces leave. -/
def State.touchRead (s : State) (a : Access) (ts : List Touch) : State :=
  ts.foldl (fun s t =>
    let s := s.tlbFill a.core a.vf t.va
    match s.touchPa a t with
    | some pa => s.afterRead a [lineOf pa]
    | none => s) s

/-- Dirty tracking of some pieces (R340). -/
def State.touchTrack (s : State) (a : Access) (ts : List Touch) : State := ts.foldl (fun s t => s.track a.vf t.va) s

/-- Writes bytes of the device's own tables and frames through some pieces. -/
def State.touchStore (s : State) (a : Access) (ts : List Touch) (bs : List Byte) : State :=
  (s.store a ((s.touchBytes a ts).zip bs)).touchTrack a ts

/-- The global bytes that other commands of the running command's batch write, as ranges (R161); commands on pages, and those on weight
sets, take effect in issue order (R182). -/
def State.batchWrites (s : State) (c k : Nat) (cls : Nat) : List (Nat × Nat) :=
  match s.wg? c k with
  | some g => (g.hazards.filter fun h => h.batch == s.batchNow && !((cls == 3 || cls == 4) && h.cls == cls)).flatMap (·.gwrites)
  | none => []

/-- Writes a command's data through some pieces: bytes that another command of its batch also writes are unspecified (R161). -/
def State.touchWrite (s : State) (a : Access) (ts : List Touch) (bs : List Byte) (cls : Nat := 2) : State :=
  let others := s.batchWrites a.core a.slot cls
  let n := s.free
  let new := ((s.touchBytes a ts).zip bs).map fun b => if inRanges others b.1 then (b.1, freeByte n (2 ^ 50 + b.1)) else b
  ((if others.isEmpty then s else s.bump).storeHaz a new cls).touchTrack a ts

/-- Every byte of a command's destination becomes unspecified (R181, R253). -/
def State.touchFree (s : State) (a : Access) (ts : List Touch) (cls : Nat := 2) : State :=
  let n := s.free
  (s.bump).touchWrite a ts ((s.touchBytes a ts).map fun p => freeByte n (2 ^ 50 + p)) cls

/-- A number read through a function's table by a command, after its pieces have been checked. -/
def State.touchNat (s : State) (a : Access) (va n : Nat) : Nat :=
  leNat ((s.touchBytes a (touches va n .read)).map (s.accByte a))

/-- Data read by a command through some pieces (R160, R190). -/
def State.touchData (s : State) (a : Access) (ts : List Touch) : List Byte :=
  let kv := s.kvRanges
  (s.touchBytes a ts).map (s.loadByte a kv)

/-- The access of a command: on stream 0 at device scope, unless it says otherwise (R181, R231). -/
def DIssue.engAccess (it : DIssue) (g : Workgroup) (scope sid : Nat) : Access :=
  { core := it.core, slot := it.slot, vf := g.vf, scope, sid, cpol := 0 }

/-- The word keeps its driver waiting under RETRY on a line, and issues again when the line is granted (R229). -/
def DIssue.holdDriver (it : DIssue) (g : Workgroup) (line addr : Nat) : Out :=
  let since := match g.drv.block with | .pin _ _ t => t | _ => it.s.clock
  it.wait it.s (.pin line addr since)

/-- DATA of a failing address: bits [63:16] in place (R181). -/
def failData (va : Nat) : Nat := va % 2 ^ 64 / 65536 * 65536

/-- Runs a command unless one of its pieces is pinned; then it waits. -/
def DIssue.unpinned (it : DIssue) (g : Workgroup) (a : Access) (ts : List Touch) (k : Unit → Out) : Out :=
  match it.s.touchPin a ts with
  | some p => it.hold g (some p) (k ())
  | none => k ()

end Sys2Proof.Machine
end

