-- ==== Sys2Proof/Machine/Matrix.lean ====
section
/-!
DEFINITION. The matrix commands (R46 to R56, R162 to R168, R255 to R257).
-/
namespace Sys2Proof.Machine

/-! Weights (R46 to R48) -/

def s8 (b : Nat) : Int := if 128 ≤ b then (b : Int) - 256 else b

/-- Five trits of a byte; true when the byte is none (R46, R47). -/
def trits (b : Nat) : List Int × Bool :=
  if 243 ≤ b then ([0, 0, 0, 0, 0], true)
  else ((List.range 5).map fun i => ((b / 3 ^ i % 3 : Nat) : Int) - 1, false)

/-- A nibble in two's complement. -/
def s4 (b : Nat) : Int := if 8 ≤ b then (b : Int) - 16 else b

/-- The 48 weights of a column in FMT, and whether it has a format error (R46 to R48). -/
def column (fmt : Nat) (bs : List Byte) : List Int × Bool :=
  match fmt with
  | 0 =>
    let ts := bs.map fun b => trits b.toNat
    let pad := (ts.getD 9 ([], false)).1.drop 3
    ((ts.flatMap (·.1)).take 48, ts.any (·.2) || pad.any (· != 0))
  | 1 => (bs.flatMap fun b => [s4 (b.toNat % 16), s4 (b.toNat / 16)], false)
  | _ => (bs.map fun b => s8 b.toNat, false)

/-- Bytes of a column (R162), passes of a command (R256). -/
def colBytes (fmt : Nat) : Nat := if fmt == 0 then 10 else if fmt == 1 then 24 else 48
def colPasses (fmt : Nat) : Nat := if fmt == 0 then 1 else if fmt == 1 then 2 else 4

def dot (xs ys : List Int) : Int := ((xs.zip ys).map fun p => p.1 * p.2).sum

/-! Cells (R51, R52) -/

/-- The integer in an A36 cell. -/
def cellInt (x : BitVec 36) : Int := x.toInt

/-- sat36 (R51): the clamped integer, and whether it was clamped. -/
def sat36 (x : Int) : Int × Bool :=
  let m : Int := 2 ^ 35 - 1
  if m < x then (m, true) else if x < -m then (-m, true) else (x, false)

/-- A cell as an F32 value (R52). -/
def cell32 (f32 : Bool) (x : BitVec 36) : W32 := if f32 then x.setWidth 32 else (toF32 0 (FVal.ofInt (cellInt x))).1

/-- An F32 value in a cell: bits [35:32] are 0 (R52). -/
def f32Cell (x : W32) : BitVec 36 := x.setWidth 36

def Tile.cell (t : Tile) (i j : Nat) : BitVec 36 := (t.cells.getD i []).getD j 0

/-- A tile's cells, computed. -/
def cellsOf (f : Nat → Nat → BitVec 36) : List (List (BitVec 36)) := (List.range 32).map fun i => (List.range 96).map (f i)

/-! `mma`, `mmag` (R162 to R164) -/

/-- The products of A rows and B columns on a tile: new tile, clamped (R162). -/
def mmaTile (t : Tile) (ovw : Bool) (rows : List (List Int)) (cols : List (List Int)) : Tile × Bool :=
  let res := rows.zip t.cells |>.map fun r => (cols.zip r.2).map fun p =>
    let sum := dot r.1 p.1
    if ovw then (sum, false) else sat36 (cellInt p.2 + sum)
  let clamp := res.any fun r => r.any (·.2)
  ({ t with cells := res.map fun r => r.map fun x => BitVec.ofInt 36 x.1
            f32 := if ovw then false else t.f32
            sat := if ovw then clamp else t.sat || clamp }, clamp)

/-- The A latch holds the workgroup's rows at some addresses (R163, R257; log 52). -/
def Core.latched (co : Core) (g : Workgroup) (rows : List Nat) : Option (List (List Byte)) :=
  co.latch.bind fun l =>
    if l.vf == g.vf && l.lid == g.lid && l.wgnum == g.wgnum && l.rows.map (·.1) == rows then some (l.rows.map (·.2)) else none

/-- The rows of A as a command has them in the latch: with KEEP those that the latch still holds, else as they are read (R163,
R257). -/
def State.latchRows (s : State) (c : Nat) (g : Workgroup) (keep : Bool) (rows : List Nat) : List (List Byte) :=
  match (if keep then (s.core c).latched g rows else none) with
  | some bs => bs
  | none => rows.map fun r => s.scrBytes c r 48

/-- The effect of `mma` on given rows of A, which the latch then holds. -/
def mmaRun (c k tile : Nat) (fmt : Nat) (ovw : Bool) (g : Workgroup) (keep : Bool) (rows : List Nat) (b pitch : Nat) (s : State) :
    State × Nat × Nat :=
  let t := s.tile c k tile
  let raw := s.latchRows c g keep rows
  let s := s.modCore c fun co => { co with latch := some { vf := g.vf, lid := g.lid, wgnum := g.wgnum, rows := rows.zip raw } }
  let cols := (List.range 96).map fun j => column fmt (s.scrBytes c (b + j * pitch) (colBytes fmt))
  let bad := cols.any (·.2)
  if !ovw && t.f32 then (s, 1, dataBit bad 17)
  else
    let as := raw.map fun r => r.map fun x => s8 x.toNat
    let r := mmaTile t ovw as (cols.map (·.1))
    (s.setTile c k tile r.1, if bad then 1 else 0, dataBit r.2 16 + dataBit bad 17)

/-- The rows that `mmag` gathers, if every one may be read (R164). -/
def gatherRows (g : Workgroup) (w reg addr pitch pa size : Nat) : Option (List Nat) :=
  match g.warps[w]? with
  | none => none
  | some x =>
    if x.gone || x.count ≤ reg then none
    else
      let idx := (List.range 32).map fun i => ((x.v.getD reg []).getD i 0).toNat % 65536
      if idx.all fun i => addr + i * pitch + 48 ≤ size then some (idx.map fun i => pa + i * pitch) else none

/-- The shared shape of `mma` and `mmag`. A gather that fails has read the index register, which a warp may not write before the batch
is waited for (R33, R160, R164). A command that MODE or its scale bytes stop holds the array, and its passes count; one that
fails before does not (R256; log 53). -/
def mmaOp (o : Op3) (gather : Bool) (s : State) : Out :=
  cmdWord (if gather then .mmag o else .mma o) o.ctl (fun it g =>
    let d := tileNo o.d
    let fmt := o.var.toNat % 4
    let ovw := o.var.getLsbD 3
    let keep := o.var.getLsbD 2
    let av := it.val o.a
    let bv := it.val o.b
    let cs := colBytes fmt
    let bp := if spdPitch bv == 0 then cs else spdPitch bv
    match tileTrap g [d] with
    | some t => it.trap t
    | none =>
      let a := if gather then spdBase g av false else spd g av 32 48 (spdPitch av) false
      let b := if bp < cs then .trap { cls := .addr, x := bv.toNat } else spd g bv 96 cs bp false
      match spdTrap [a, b] with
      | some t => it.trap t
      | none =>
        if spdStale [a, b] then it.only g o.ctl 0 4 0 [d]
        else
          let w := o.xt.toNat / 256
          let reg := o.xt.toNat % 256
          let rows :=
            if gather then
              gatherRows g w reg (spdAddr av) (spdPitch av) a.pa (match a with | .at_ _ _ size => size | _ => 0)
            else some ((List.range 32).map fun i => a.pa + i * spdPitch av)
          let vreg := if gather then some (w, reg) else none
          match rows with
          | none =>
            it.run g o.ctl { cls := 0, tiles := [d], wtiles := [d], vreg, kept := rowsOf b.pa 96 cs bp, run := fun s => (s, 1, 0) }
          | some rs =>
            let work : Work :=
              { cls := 0, tiles := [d], wtiles := [d], fcells := if ovw then [d] else [], vreg, passes := colPasses fmt
                kept := rs.map fun r => (r, 48)
                reads := (if keep && ((it.s.core it.core).latched g rs).isSome then [] else rs.map fun r => (r, 48, a.org))
                  ++ (rowsOf b.pa 96 cs bp).map fun r => (r.1, r.2, b.org)
                run := mmaRun it.core it.slot d fmt ovw g keep rs b.pa bp }
            it.run g o.ctl work) s

def execMma (o : Op3) (s : State) : Out := mmaOp o false s
def execMmag (o : Op3) (s : State) : Out := mmaOp o true s

/-! `scacc` (R56, R165) -/

/-- One cell of `scacc`. -/
def scaccCell (clr : Bool) (a d : BitVec 36) (sr sc : Nat) : BitVec 36 :=
  if sr == 255 || sc == 255 then f32Cell nanF32
  else
    let prior : FVal := if clr then .fin false 0 0 else f32 (d.setWidth 32)
    let x := (FVal.ofInt (cellInt a)).scale ((sr + sc : Nat) - 254)
    f32Cell (toF32 0 (FVal.add 0 prior x).1).1

def scaccRun (c k d a : Nat) (clr : Bool) (p : Nat) (s : State) : State × Nat × Nat :=
  let td := s.tile c k d
  let ta := s.tile c k a
  if ta.f32 || (!td.f32 && !clr) then (s, 1, 0)
  else
    let sc := (s.scrBytes c p 128).map BitVec.toNat
    (s.setTile c k d
      { td with cells := cellsOf fun i j => scaccCell clr (ta.cell i j) (td.cell i j) (sc.getD i 0) (sc.getD (32 + j) 0)
                f32 := true }, 0, 0)

def execScacc (o : Op3) (s : State) : Out :=
  cmdWord (.scacc o) o.ctl (fun it g =>
    let d := tileNo o.d
    let a := tileNo o.a
    match tileTrap g [d, a] with
    | some t => it.trap t
    | none =>
      match spd g (it.val o.b) 1 128 0 false with
      | .trap t => it.trap t
      | .stale => it.only g o.ctl 0 4 0 [d, a]
      | .at_ p org _ =>
        let fresh := if o.var == 1 then [d] else []
        it.run g o.ctl { cls := 0, reads := [(p, 128, org)], tiles := [d, a], wtiles := [d], fcells := fresh, sat := fresh
                         run := scaccRun it.core it.slot d a (o.var == 1) p }) s

/-! `drain` (R166) -/

/-- The block rule of `drain`: Q48 (R53), or its I4 form: elements, scale byte, clamped. -/
def drainBlock (i4 : Bool) (xs : List W32) : List Int × Nat × Bool :=
  if !i4 then let q := q48 xs; (q.1, q.2.1, q.2.2.2)
  else
    let vs := xs.map f32
    if vs.any fun v => (match v with | .fin .. => false | _ => true) then (vs.map fun _ => 0, 255, false)
    else if xs.all fun x => x.toNat % 2 ^ 31 == 0 then (vs.map fun _ => 0, 0, false)
    else
      let top (v : FVal) : Int := match v with | .fin _ m e => if m == 0 then -10000 else e + Nat.log2 m | _ => -10000
      let e := max (vs.foldl (fun a v => max a (top v)) (-10000) - 2) (-127)
      let qs := vs.map fun v => match v with | .fin n m x => signed n (roundInt 0 n m (x - e)) | _ => 0
      (qs.map fun q => if 7 < q then 7 else if q < -7 then -7 else q, (e + 127).toNat,
        qs.any fun q => decide (7 < q) || decide (q < -7))

/-- The bytes of a block's elements. -/
def blockBytes (i4 : Bool) (qs : List Int) : List Byte :=
  if i4 then (List.range 24).map fun k => BitVec.ofNat 8 (((qs.getD (2 * k) 0) % 16).toNat + 16 * ((qs.getD (2 * k + 1) 0) % 16).toNat)
  else qs.map fun q => BitVec.ofInt 8 q

/-- A drained row: element bytes, scale bytes, clamped, a block of scale 0xFF. -/
def drainRow (tgt : Nat) (xs : List W32) : List Byte × List Byte × Bool × Bool :=
  match tgt with
  | 3 => (xs.flatMap fun x => leBytes 4 x.toNat, [], false, false)
  | 2 => (xs.flatMap fun x => leBytes 2 (fBF16.encode 0 (f32 x)).1, [], false, false)
  | _ =>
    let i4 := tgt == 1
    let b0 := drainBlock i4 (xs.take 48)
    let b1 := drainBlock i4 (xs.drop 48)
    (blockBytes i4 b0.1 ++ blockBytes i4 b1.1, [BitVec.ofNat 8 b0.2.1, BitVec.ofNat 8 b1.2.1], b0.2.2 || b1.2.2,
      b0.2.1 == 255 || b1.2.1 == 255)

/-- Bytes of a drained row. -/
def drainLen (tgt : Nat) : Nat := if tgt == 0 then 96 else if tgt == 1 then 48 else if tgt == 2 then 192 else 384

def drainRun (c k a tgt e ep sc sp : Nat) (s : State) : State × Nat × Nat :=
  let t := s.tile c k a
  let rows := (List.range 32).map fun i => drainRow tgt ((List.range 96).map fun j => cell32 t.f32 (t.cell i j))
  let bytes := (List.range 32).flatMap fun i =>
    let r := rows.getD i ([], [], false, false)
    bytesAt (e + i * ep) r.1 ++ bytesAt (sc + i * sp) r.2.1
  let clamp := rows.any (·.2.2.1)
  let nan := rows.any (·.2.2.2)
  (s.scrWriteCmd c k bytes, if nan then 1 else 0, dataBit clamp 16 + dataBit nan 17)

def execDrain (o : Op3) (s : State) : Out :=
  cmdWord (.drain o) o.ctl (fun it g =>
    let a := tileNo o.a
    let tgt := o.var.toNat % 4
    let dv := it.val o.d
    let bv := it.val o.b
    match tileTrap g [a] with
    | some t => it.trap t
    | none =>
      let e := spd g dv 32 (drainLen tgt) (spdPitch dv) true
      let b := if tgt < 2 then spd g bv 32 2 (spdPitch bv) true else .at_ 0 0 0
      match spdTrap [e, b] with
      | some t => it.trap t
      | none =>
        if spdStale [e, b] then it.only g o.ctl 0 4 0 [a]
        else
          let sw := if tgt < 2 then rowsOf b.pa 32 2 (spdPitch bv) else []
          it.run g o.ctl
            { cls := 0, tiles := [a], writes := rowsOf e.pa 32 (drainLen tgt) (spdPitch dv) ++ sw
              run := drainRun it.core it.slot a tgt e.pa (spdPitch dv) b.pa (spdPitch bv) }) s

/-! `aclr`, `ald`, `ast` (R167, R168) -/

def execAclr (o : Op3) (s : State) : Out :=
  cmdWord (.aclr o) o.ctl (fun it g =>
    let d := tileNo o.d
    match tileTrap g [d] with
    | some t => it.trap t
    | none =>
      it.run g o.ctl { cls := 0, tiles := [d], wtiles := [d], fresh := [d]
                       run := fun s => (s.setTile it.core it.slot d { freshTile with f32 := o.var == 1 }, 0, 0) }) s

/-- Row state of an SPD region; class 5 gives (−∞, +0.0). -/
def State.rowState (s : State) (c : Nat) (p : Option Nat) : List (W32 × W32) :=
  match p with
  | none => freshTile.rows
  | some p => (List.range 32).map fun i => (BitVec.ofNat 32 (s.scrNat c (p + 8 * i) 4), BitVec.ofNat 32 (s.scrNat c (p + 8 * i + 4) 4))

def aldRun (c k d : Nat) (isF : Bool) (p pitch : Nat) (rp : Option Nat) (s : State) : State × Nat × Nat :=
  let n := if isF then 4 else 8
  let raw (i j : Nat) : Nat := s.scrNat c (p + i * pitch + n * j) n
  let a36 (i j : Nat) : Int × Bool := sat36 (BitVec.ofNat 36 (raw i j)).toInt
  let cells := cellsOf fun i j => if isF then f32Cell (BitVec.ofNat 32 (raw i j)) else BitVec.ofInt 36 (a36 i j).1
  let clamp := !isF && (List.range 32).any fun i => (List.range 96).any fun j => (a36 i j).2
  (s.setTile c k d { cells := cells, rows := s.rowState c rp, f32 := isF, sat := clamp }, 0, 0)

def execAld (o : Op3) (s : State) : Out :=
  cmdWord (.ald o) o.ctl (fun it g =>
    let d := tileNo o.d
    let isF := o.var == 1
    let av := it.val o.a
    let len := if isF then 384 else 768
    match tileTrap g [d] with
    | some t => it.trap t
    | none =>
      let a := spd g av 32 len (spdPitch av) false
      let b := if o.b.isD then spd g (it.val o.b) 1 256 0 false else .at_ 0 0 0
      match spdTrap [a, b] with
      | some t => it.trap t
      | none =>
        if spdStale [a, b] then it.only g o.ctl 0 4 0 [d]
        else
          let rr := if o.b.isD then [(b.pa, 256, b.org)] else []
          it.run g o.ctl
            { cls := 0, tiles := [d], wtiles := [d], fresh := [d]
              reads := ((rowsOf a.pa 32 len (spdPitch av)).map fun r => (r.1, r.2, a.org)) ++ rr
              run := aldRun it.core it.slot d isF a.pa (spdPitch av) (if o.b.isD then some b.pa else none) }) s

def astRun (c k a p pitch : Nat) (rp : Option Nat) (s : State) : State × Nat × Nat :=
  let t := s.tile c k a
  let row (i : Nat) : List Byte := (List.range 96).flatMap fun j =>
    let x := t.cell i j
    if t.f32 then leBytes 4 (x.toNat % 2 ^ 32) else leBytes 8 (x.signExtend 64).toNat
  let bytes := (List.range 32).flatMap fun i => bytesAt (p + i * pitch) (row i)
  let rows := match rp with
    | some q => (List.range 32).flatMap fun i =>
        let r := t.rows.getD i (0, 0)
        bytesAt (q + 8 * i) (leBytes 4 r.1.toNat ++ leBytes 4 r.2.toNat)
    | none => []
  (s.scrWriteCmd c k (bytes ++ rows), 0, dataBit t.f32 16 + dataBit t.sat 17)

/-- The modes of the tiles after a waiting command that names them as it will change them (R168). -/
def modeAfter (q : Retry) (ms : List Bool) : List Bool :=
  let word (o : Opnd) : W64 := if dNo o == 0 then 0 else q.d.getD (dNo o) 0
  let stale (v : W64) : Bool :=
    spdObj v && (match q.slots.getD (spdSlot v) .empty with | .bound _ _ _ _ => false | _ => true)
  let mode (o : Opnd) : Bool := ms.getD (tileNo o) false
  let put (o : Opnd) (m : Bool) : List Bool := ms.set (tileNo o) m
  match q.word with
  | .aclr o => put o.d (o.var == 1)
  | .ald o => if stale (word o.a) || (o.b.isD && stale (word o.b)) then ms else put o.d (o.var == 1)
  | .mma o => if !o.var.getLsbD 3 || stale (word o.a) || stale (word o.b) then ms else put o.d false
  | .mmag o => if !o.var.getLsbD 3 || stale (word o.a) || stale (word o.b) then ms else put o.d false
  | .scacc o => if mode o.a || (!mode o.d && o.var != 1) || stale (word o.b) then ms else put o.d true
  | _ => ms

/-- The expected mode of a tile (R168): its mode, changed by the commands of the open batch, of which those that have not waited have
changed it already. -/
def Workgroup.expectF32 (g : Workgroup) (t : Nat) : Bool :=
  (g.open_.foldl (fun ms q => match q.pend with | .retry r => modeAfter r ms | _ => ms) (g.tiles.map (·.f32))).getD t false

/-- The mode against which the cell region of a waiting `ast` was checked at its issue (R168). -/
def Workgroup.madeF32 (g : Workgroup) (p : Nat × Nat) : Bool := ((g.hazOf p.1 p.2).writes.headD (0, 0)).2 == 384

def execAst (o : Op3) (s : State) : Out :=
  cmdWord (.ast o) o.ctl (fun it g =>
    let a := tileNo o.a
    let dv := it.val o.d
    let f32 := if it.s.replay.isNone then g.expectF32 a else g.madeF32 (it.place g)
    let len := if f32 then 384 else 768
    match tileTrap g [a] with
    | some t => it.trap t
    | none =>
      let d := spd g dv 32 len (spdPitch dv) true
      let b := if o.b.isD then spd g (it.val o.b) 1 256 0 true else .at_ 0 0 0
      match spdTrap [d, b] with
      | some t => it.trap t
      | none =>
        if spdStale [d, b] then it.only g o.ctl 0 4 0 [a]
        else
          let rr := if o.b.isD then [(b.pa, 256)] else []
          it.run g o.ctl
            { cls := 0, tiles := [a], rows := if o.b.isD then [a] else [], sat := [a], writes := rowsOf d.pa 32 len (spdPitch dv) ++ rr
              run := astRun it.core it.slot a d.pa (spdPitch dv) (if o.b.isD then some b.pa else none) }) s

end Sys2Proof.Machine
end

