-- ==== Sys2Proof/Machine/Attn.lean ====
section
/-!
DEFINITION. The attention commands (R57, R58, R169 to R172) and the page frame that they read (R320).
-/
namespace Sys2Proof.Machine

/-! The page frame (R320) -/


/-- A frame as bytes in order, and what lies in it. -/
structure Frame where
  bytes : List Byte
  deriving DecidableEq, Repr, Inhabited

def Frame.at_ (f : Frame) (i : Nat) : Nat := (f.bytes.getD i 0).toNat
def Frame.valid (f : Frame) : Nat := f.at_ 8
def Frame.kscale (f : Frame) (j b : Nat) : Nat := f.at_ (64 + 4 * j + b)
def Frame.vscale (f : Frame) (c : Nat) : Nat := f.at_ (256 + c)
def Frame.k (f : Frame) (d j c : Nat) : Int := s8 (f.at_ (512 + d * j + c))
def Frame.v (f : Frame) (d j c : Nat) : Int := s8 (f.at_ (512 + 48 * d + d * j + c))

/-- The frame as an array of numbers is read once; K rows and V columns follow. -/
def Frame.krow (f : Frame) (d j b : Nat) : List Int := ((f.bytes.drop (512 + d * j + 48 * b)).take 48).map fun x => s8 x.toNat

/-! Arithmetic of the row unit (R57, R170) -/

/-- max, where a NaN operand gives NaN (R170). -/
def maxNan (a b : W32) : W32 := if (f32 a).isNan || (f32 b).isNan then nanF32 else maxF32 a b

def negInf : W32 := 0xFF80_0000
def subF32 (a b : W32) : W32 := (addF32 0 a (b ^^^ 0x8000_0000)).1
def mulR (a b : W32) : W32 := (mulF32 0 a b).1
def addR (a b : W32) : W32 := (addF32 0 a b).1

/-- rne_f32(s + x × 2^k), product and sum exact. -/
def addScaled (s : W32) (x : Int) (k : Int) : W32 := (toF32 0 (FVal.add 0 (f32 s) ((FVal.ofInt x).scale k)).1).1

/-- Pq of R170. -/
def quantP (p : W32) : Int :=
  match f32 p with
  | .nan => 0
  | .inf n => if n then 0 else 127
  | .fin n m e => min 127 (signed n (roundInt 0 n m (e + 7)))

/-- The score of one query row and one slot (R170): blocks in ascending order. -/
def score (qs : List (List Int)) (qsc : List Nat) (f : Frame) (d j : Nat) (cc : W32) : W32 :=
  let s := (List.range (d / 48)).foldl (fun (s : W32) b =>
    addScaled s (dot (qs.getD b []) (f.krow d j b)) (((qsc.getD b 0 + f.kscale j b : Nat) : Int) - 254)) 0
  mulR s cc

/-- One row of `attn` (R170): the new row state and cells of the d channels, or none where the row is unchanged. -/
def attnRow (f : Frame) (d vc : Nat) (pstart qi : Nat) (cc : W32) (qs : List (List Int)) (qsc : List Nat)
    (m l : W32) (cells : List W32) : Option (W32 × W32 × List W32) :=
  let masked (j : Nat) : Bool := vc ≤ j || qi < pstart + j
  let ts := (List.range 48).map fun j => if masked j then none else some (score qs qsc f d j cc)
  let m' := ts.foldl (fun a t => match t with | some x => maxNan a x | none => a) (if (f32 m).isNan then nanF32 else m)
  if m' == negInf then none
  else
    let alpha := exp2r (subF32 m m')
    let ps := ts.map fun t => match t with | some x => exp2r (subF32 x m') | none => 0
    let pq := (ts.zip ps).map fun t => match t.1 with | some _ => quantP t.2 | none => 0
    let l' := ps.foldl addR (mulR l alpha)
    let out := (List.range d).map fun c =>
      let x := dot pq ((List.range 48).map fun j => f.v d j c)
      addScaled (mulR (cells.getD c 0) alpha) x ((f.vscale c : Int) - 134)
    some (m', l', out)

/-- Replaces the first cells of a row with F32 values. -/
def putCells (row : List (BitVec 36)) (xs : List W32) : List (BitVec 36) := (xs.map f32Cell) ++ row.drop xs.length

/-- The effect of `attn` on its one or two output tiles. -/
def attnTiles (f : Frame) (d vc rpp qbase pstart : Nat) (cc : W32) (q : Nat → List (List Int)) (qsc : Nat → List Nat)
    (t0 t1 : Tile) : Tile × Tile :=
  let two := 96 < d
  let rows := (List.range 32).map fun i =>
    let r := t0.rows.getD i (0, 0)
    let c0 := (t0.cells.getD i []).map fun x => (x.setWidth 32 : W32)
    let c1 := (t1.cells.getD i []).map fun x => (x.setWidth 32 : W32)
    attnRow f d vc pstart (qbase + i / rpp) cc (q i) (qsc i) r.1 r.2 (if two then c0 ++ c1 else c0)
  let upd (t : Tile) (from' : Nat) : Tile :=
    { t with
      cells := (List.range 32).map fun i =>
        match rows.getD i none with
        | some r => putCells (t.cells.getD i []) ((r.2.2.drop from').take 96)
        | none => t.cells.getD i []
      rows := (List.range 32).map fun i =>
        match rows.getD i none with
        | some r => (r.1, r.2.1)
        | none => t.rows.getD i (0, 0) }
  (upd t0 0, if two then upd t1 96 else t1)

/-- The batch of some regions has not completed. -/
def Workgroup.flies (g : Workgroup) (h : Haz) : Bool :=
  h.batch == 16 || (g.batches.getD h.batch { state := .idle, cmds := [] }).state == .inflight

/-- A command that changes what an `attn` reads of a frame, given by its physical ranges, is in flight, in any workgroup (R160, R190):
all of the frame but the flags of its header. -/
def State.kvBusy (s : State) (frame : List (Nat × Nat)) : Bool :=
  let read := match frame with
    | r :: rest => (r.1, 9) :: (r.1 + 10, r.2 - 10) :: rest
    | [] => []
  s.residents.any fun p => p.2.2.hazards.any fun h => rangesMeet h.kv read && p.2.2.flies h

/-- `attn` once its checks at issue have passed. Where conditions of status 1 and a failure of status 2 or 3 hold together, the rule
gives no order: those on the parameters and the address come first, then the failures, then the others (log 53). -/
def attnWork (it : DIssue) (g : Workgroup) (o : Op3) (d : Nat) (qa org : Nat) (s0 : State) : Option (Nat × Nat) ⊕ Work :=
  let p1 := (it.param o.a 1).toNat
  let p2 := (it.param o.a 2).toNat
  let va := (it.val o.b).toNat
  let pitch := spdPitch (it.val o.a)
  let t := tileNo o.d
  let acc := it.engAccess g 2 0
  let rpp := bitsOf p1 47 40
  let nb := d / 48
  if bitsOf p1 63 48 != 0 || bitsOf p1 39 34 != 0 || rpp == 0 || !canonical va || va % 64 != 0 then .inl (some (1, 0))
  else
    match s0.touchFail acc (touches va (frameBytes d) .read) with
    | some (st, _) => .inl (some (st, failData va))
    | none =>
      let as := s0.touchBytes acc (touches va (frameBytes d) .read)
      let f : Frame := { bytes := as.map (s0.accByte acc) }
      let ts := if 96 < d then [t, t + 1] else [t]
      let frame := s0.touchRanges acc (touches va (frameBytes d) .read)
      .inr
        { cls := 1, tiles := ts, rows := ts, wtiles := ts, attn := frame, passes := 4 * nb + 4 * ((d + 95) / 96)
          reads := (rowsOf qa 32 d pitch ++ rowsOf (qa + 32 * pitch) 32 nb 4).map fun r => (r.1, r.2, org)
          run := fun s =>
            let s := s.touchRead acc (touches va (frameBytes d) .read)
            let q (i : Nat) : List (List Int) := (List.range nb).map fun b =>
              (s.scrBytes it.core (qa + i * pitch + 48 * b) 48).map fun x => s8 x.toNat
            let qsc (i : Nat) : List Nat := (List.range nb).map fun b => (s.scrHaz it.core engineReader (qa + 32 * pitch + 4 * i + b)).toNat
            let vc := f.valid
            let bad := 48 < vc || ts.any (fun x => !(s.tile it.core it.slot x).f32)
              || (List.range 32).any (fun i => (qsc i).contains 255)
              || (List.range vc).any (fun j => (List.range nb).any fun b => f.kscale j b == 255)
              || (List.range d).any (fun c => f.vscale c == 255)
            if bad then (s, 1, 0)
            else
              let r := attnTiles f d vc rpp (bitsOf p2 63 32) (bitsOf p2 31 0) (BitVec.ofNat 32 p1) q qsc
                (s.tile it.core it.slot t) (s.tile it.core it.slot (t + 1))
              let s := s.setTile it.core it.slot t r.1
              let s := if 96 < d then s.setTile it.core it.slot (t + 1) r.2 else s
              (if s.kvBusy frame then s.freeTiles it.core it.slot ts else s, 0, 0) }

/-- `attn` (R169, R170). -/
def execAttn (o : Op3) (s : State) : Out :=
  cmdWord (.attn o) o.ctl (fun it g =>
    let av := it.val o.a
    let d := headDim (bitsOf (it.param o.a 1).toNat 33 32)
    let t := tileNo o.d
    let ts := if 96 < d then [t, t + 1] else [t]
    match tileTrap g ts with
    | some e => it.trap e
    | none =>
      let q := spd g av 32 d (spdPitch av) false
      let sc := spd g av 33 128 (spdPitch av) false
      match spdTrap [q, sc] with
      | some e => it.trap e
      | none =>
        if spdStale [q] then it.only g o.ctl 1 4 0 ts
        else
          match attnWork it g o d q.pa q.org it.s with
          | .inl (some (st, data)) => it.only g o.ctl 1 st data ts
          | .inl none => it.only g o.ctl 1 1 0 ts
          | .inr w =>
            it.unpinned g (it.engAccess g 2 0) (touches (it.val o.b).toNat (frameBytes d) .read) fun _ => it.run g o.ctl w) s

/-! `atmerge` (R171) -/

/-- One row of a merge: none where the row is unchanged. -/
def mergeRow (m1 l1 m2 l2 : W32) (o1 o2 : List W32) : Option (W32 × W32 × List W32) :=
  let m := maxNan m1 m2
  if m == negInf then none
  else
    let a1 := exp2r (subF32 m1 m)
    let a2 := exp2r (subF32 m2 m)
    some (m, addR (mulR l1 a1) (mulR l2 a2), (o1.zip o2).map fun p => addR (mulR p.1 a1) (mulR p.2 a2))

def atmergeRun (c k d a : Nat) (s : State) : State × Nat × Nat :=
  let td := s.tile c k d
  let ta := s.tile c k a
  if !td.f32 || !ta.f32 then (s, 1, 0)
  else
    let cells (t : Tile) (i : Nat) : List W32 := (t.cells.getD i []).map fun x => (x.setWidth 32 : W32)
    let rows := (List.range 32).map fun i =>
      let r1 := td.rows.getD i (0, 0)
      let r2 := ta.rows.getD i (0, 0)
      mergeRow r1.1 r1.2 r2.1 r2.2 (cells td i) (cells ta i)
    let t := { td with
      cells := (List.range 32).map fun i =>
        match rows.getD i none with | some r => r.2.2.map f32Cell | none => td.cells.getD i []
      rows := (List.range 32).map fun i =>
        match rows.getD i none with | some r => (r.1, r.2.1) | none => td.rows.getD i (0, 0) }
    (s.setTile c k d t, 0, 0)

def execAtmerge (o : Op3) (s : State) : Out :=
  cmdWord (.atmerge o) o.ctl (fun it g =>
    let d := tileNo o.d
    let a := tileNo o.a
    match tileTrap g [d, a] with
    | some t => it.trap t
    | none => it.run g o.ctl { cls := 1, tiles := [d, a], rows := [d, a], wtiles := [d], run := atmergeRun it.core it.slot d a }) s

/-! `atnorm` (R172) -/

/-- a / b rounded once to a format (R39, R172). -/
def divTo (f : Fmt) (a b : FVal) : Nat :=
  match a, b with
  | .nan, _ => f.nan
  | _, .nan => f.nan
  | .inf _, .inf _ => f.nan
  | .inf n, .fin m _ _ => f.sign (n != m) + f.maxCode + 1
  | .fin n _ _, .inf m => f.sign (n != m)
  | .fin n m e, .fin n' m' e' =>
    if m' == 0 then (if m == 0 then f.nan else f.sign (n != n') + f.maxCode + 1)
    else
      let k := 64 + Nat.log2 m'
      let num := m * 2 ^ k
      (f.round 0 (n != n') (num / m') (e - e' - (k : Nat)) (num % m' != 0)).code

def atnormRun (c k a : Nat) (bf : Bool) (p pitch : Nat) (s : State) : State × Nat × Nat :=
  let t := s.tile c k a
  if !t.f32 then (s, 1, 0)
  else
    let row (i : Nat) : List Byte :=
      let l := f32 (t.rows.getD i (0, 0)).2
      let zero := match l with | .fin _ m _ => m == 0 | _ => false
      (List.range 96).flatMap fun j =>
        let x := f32 ((t.cell i j).setWidth 32)
        let n := if zero then 0 else if bf then divTo fBF16 x l else divTo fF32 x l
        leBytes (if bf then 2 else 4) n
    (s.scrWriteCmd c k ((List.range 32).flatMap fun i => bytesAt (p + i * pitch) (row i)), 0, 0)

def execAtnorm (o : Op3) (s : State) : Out :=
  cmdWord (.atnorm o) o.ctl (fun it g =>
    let a := tileNo o.a
    let bf := o.var == 1
    let dv := it.val o.d
    let len := if bf then 192 else 384
    match tileTrap g [a] with
    | some t => it.trap t
    | none =>
      match spd g dv 32 len (spdPitch dv) true with
      | .trap t => it.trap t
      | .stale => it.only g o.ctl 1 4 0 [a]
      | .at_ p _ _ =>
        it.run g o.ctl { cls := 1, tiles := [a], rows := [a], writes := rowsOf p 32 len (spdPitch dv)
                         run := atnormRun it.core it.slot a bf p (spdPitch dv) }) s

end Sys2Proof.Machine
end

