-- ==== Sys2Proof/Machine/Copy.lean ====
section
/-!
DEFINITION. Copies, batches and their records, and launches from the driver (R173 to R179, R302, R303).
-/
namespace Sys2Proof.Machine

/-! Copies (R173, R174) -/

/-- One side of a copy: scratchpad or global, and where each row starts (a physical scratchpad address, or a virtual address). -/
structure Side where
  scratch : Bool
  rows    : List Nat
  /-- base of the window or object of a scratchpad side -/
  org     : Nat := 0

/-- The pieces of a side's row; a scratchpad side has none. -/
def Side.cut (x : Side) (row len : Nat) (need : Need) : List Touch :=
  if x.scratch then [] else touches (row % 2 ^ 64) len need

/-- Every piece in the command's order: each row's source, then its destination. -/
def copyTouches (src dst : Side) (len : Nat) : List Touch :=
  (src.rows.zip dst.rows).flatMap fun r => src.cut r.1 len .read ++ dst.cut r.2 len .write

/-- The physical ranges of a side. -/
def Side.ranges (x : Side) (s : State) (a : Access) (len : Nat) (need : Need) : List (Nat × Nat) :=
  if x.scratch then x.rows.map fun r => (r, len) else s.touchRanges a (x.rows.flatMap fun r => x.cut r len need)

/-- The bytes of a source row. -/
def Side.bytes (x : Side) (s : State) (a : Access) (row len : Nat) : List Byte :=
  if x.scratch then s.scrBytes a.core row len else s.touchData a (x.cut row len .read)

/-- Writes one row. -/
def Side.write (x : Side) (s : State) (a : Access) (row len : Nat) (bs : List Byte) : State :=
  if x.scratch then s.scrWriteCmd a.core a.slot (bytesAt row bs) else s.touchWrite a (x.cut row len .write) bs

/-- Every byte of the destination becomes unspecified. -/
def Side.spoil (x : Side) (s : State) (a : Access) (len : Nat) : State :=
  if x.scratch then (s.bump).scrWriteCmd a.core a.slot (freeRange s.free (x.rows.map fun r => (r, len)))
  else s.touchFree a (x.rows.flatMap fun r => x.cut r len .write)

/-- Poisons a line as a write of the access leaves it. -/
def State.poisonLine (s : State) (a : Access) (ln : Nat) : State :=
  let s := if 2 ≤ a.scope || ((s.core a.core).l1At ln).isNone then s.setPoison ln true else s
  s.modCore a.core fun co => { co with l1 := co.l1.map fun l => if l.line == ln then { l with poison := true } else l }

/-- Global destination lines that would receive poisoned bytes are poisoned (R253). -/
def Side.poison (src dst : Side) (s : State) (a : Access) (len : Nat) : State :=
  if src.scratch || dst.scratch then s
  else
    (src.rows.zip dst.rows).foldl (fun s r =>
      let sp := s.touchBytes a (src.cut r.1 len .read)
      let dp := s.touchBytes a (dst.cut r.2 len .write)
      if sp.length != len || dp.length != len then s
      else (((sp.zip dp).filter fun q => s.accPoison a [q.1]).map fun q => lineOf q.2).eraseDups.foldl
        (fun s ln => s.poisonLine a ln) s) s

/-- The effect of a copy: status and DATA. `open_ k j` says that byte j of row k has no defined order. -/
def copyRun (a : Access) (src dst : Side) (len : Nat) (open_ : Nat → Nat → Bool) (s : State) : State × Nat × Nat :=
  match s.touchFail a (copyTouches src dst len) with
  | some (st, va) => (src.poison dst (dst.spoil s a len) a len, st, failData va)
  | none =>
    let s := if src.scratch then s else s.touchRead a (src.rows.flatMap fun r => src.cut r len .read)
    if src.scratch == dst.scratch && rangesMeet (src.ranges s a len .read) (dst.ranges s a len .write) then
      (dst.spoil s a len, 0, 0)
    else
      let n := s.free
      let data := src.rows.map fun r => src.bytes s a r len
      let s := (List.range dst.rows.length).foldl (fun s k =>
        let bs := data.getD k []
        let bs := bs.zipIdx.map fun b => if open_ k b.2 then freeByte n (2 ^ 36 * k + b.2) else b.1
        dst.write s a (dst.rows.getD k 0) len bs) s.bump
      (s, 0, 0)

/-- A copy as a command. -/
def copyWork (s : State) (a : Access) (src dst : Side) (len : Nat) (extra : List (Nat × Nat × Nat)) (open_ : Nat → Nat → Bool) :
    Work :=
  { cls := 2
    reads := extra ++ (if src.scratch then src.rows.map fun r => (r, len, src.org) else [])
    writes := if dst.scratch then dst.rows.map fun r => (r, len) else []
    gwrites := if dst.scratch then [] else dst.ranges s a len .write
    run := copyRun a src dst len open_ }

/-- The first address among some that is not canonical. -/
def badAddr (vs : List W64) : Option TrapInfo :=
  (vs.find? fun v => !canonical v.toNat).map fun v => { cls := .addr, x := v.toNat }

/-- An SPD of a copy: its PITCH field must be 0 (R173). Whether R159's rule that the pitch of a written region is no less than a row
holds for the pitch in dB+1 is left open; the model has it hold, where there is more than one row (log 55). -/
def copySpd (g : Workgroup) (v : W64) (rows len pitch : Nat) (write : Bool) : SpdRes :=
  if spdPitch v != 0 then .trap { cls := .addr, x := v.toNat } else spd g v rows len pitch write

/-- The function owns no copy engine (R339). -/
def DIssue.noCopyEngine (it : DIssue) (g : Workgroup) : Bool := it.s.topNat g.vf 152 32 == 0

/-- The trap for want of a copy engine: ADDR; the rule gives no address, so word X is unspecified. -/
def DIssue.noEngineTrap (it : DIssue) : TrapInfo :=
  { cls := .addr, x := (Config.freeBits 64 it.ctr 9 : BitVec 64).toNat }

/-- Runs a copy once its descriptors have been checked. Through an empty slot it completes with status 4 (R25), also where it has no
rows or no bytes, for which R173 gives status 0 (log 54). -/
def DIssue.copy (it : DIssue) (g : Workgroup) (o : Op3) (rs : List SpdRes) (src dst : Side) (len : Nat)
    (extra : List (Nat × Nat × Nat)) (open_ : Nat → Nat → Bool) : Out :=
  if spdStale rs then it.only g o.ctl 2 4 0
  else
    let a := it.engAccess g o.scope o.sid.toNat
    it.unpinned g a (copyTouches src dst len) fun _ => it.run g o.ctl (copyWork it.s a src dst len extra open_)

/-- A side of `copy`. -/
def copySide (r : SpdRes) (scratch : Bool) (v : W64) (rows pitch : Nat) : Side :=
  { scratch := scratch, org := r.org, rows := (List.range rows).map fun k => (if scratch then r.pa else v.toNat) + k * pitch }

/-- `copy` (R173). -/
def execCopy (o : Op3) (s : State) : Out :=
  cmdWord (.copy o) o.ctl (fun it g =>
    let dir := o.var.toNat % 4
    let dv := it.val o.d
    let av := it.val o.a
    let p0 := (it.param o.b 0).toNat
    let p1 := (it.param o.b 1).toNat
    let len := p0 % 2 ^ 32
    let rows := if len == 0 then 0 else p0 / 2 ^ 32
    let sp := p1 % 2 ^ 32
    let dp := p1 / 2 ^ 32
    let dScr := dir == 0 || dir == 3
    let aScr := dir == 1 || dir == 3
    let none : SpdRes := .at_ 0 0 0
    if it.noCopyEngine g then it.trap it.noEngineTrap else
    let dr := if dScr then copySpd g dv rows len dp true else none
    let ar := if aScr then copySpd g av rows len sp false else none
    match spdTrap [dr, ar] with
    | some t => it.trap t
    | .none =>
      match badAddr ((if dScr then [] else [dv]) ++ (if aScr then [] else [av])) with
      | some t => it.trap t
      | .none =>
        it.copy g o [dr, ar] (copySide ar aScr av rows sp) (copySide dr dScr dv rows dp) len []
          (fun k j => (k + 1 < rows && dp ≤ j) || (0 < k && j + dp < len))) s

/-- `copyx` (R174). -/
def execCopyx (o : Op3) (s : State) : Out :=
  cmdWord (.copyx o) o.ctl (fun it g =>
    let gat := !o.var.getLsbD 0
    let dv := it.val o.d
    let av := it.val o.a
    let p0 := (it.param o.b 0).toNat
    let p1 := (it.param o.b 1).toNat
    let lst := p0 % 2 ^ 20
    let n := p0 / 2 ^ 32
    let len := p1 % 2 ^ 32
    let pitch := p1 / 2 ^ 32
    let sv := if gat then dv else av
    let gv := if gat then av else dv
    let r := copySpd g sv n len len gat
    if it.noCopyEngine g then it.trap it.noEngineTrap
    else if bitsOf p0 31 20 != 0 || lst % 4 != 0 || g.hdr.scratch < regionEnd lst n 4 4 then it.trap { cls := .addr, x := p0 }
    else
      match spdTrap [r] with
      | some t => it.trap t
      | none =>
        match badAddr [gv] with
        | some t => it.trap t
        | none =>
          let rows := if len == 0 then 0 else n
          let base := g.winBase + lst
          let scr := copySide r true sv rows len
          let glo : Side := { scratch := false, rows := (List.range rows).map fun k =>
            gv.toNat + it.s.scrNat it.core (base + 4 * k) 4 * pitch }
          let extra := if rows == 0 then [] else [(base, 4 * rows, g.winBase)]
          if gat then it.copy g o [r] glo scr len extra (fun _ _ => false)
          else it.copy g o [r] scr glo len extra (fun _ _ => false)) s

/-! Batches (R175 to R178) -/

def Workgroup.batch (g : Workgroup) (n : Nat) : Batch := g.batches.getD n { state := .idle, cmds := [] }

def Workgroup.inflight (g : Workgroup) (n : Nat) : Bool := (g.batch n).state == .inflight

/-- Batches in flight. -/
def Workgroup.flying (g : Workgroup) : List Nat := (List.range 16).filter g.inflight

/-- `bfence` of batch n waits (R175). -/
def Workgroup.fenceWaits (g : Workgroup) (n : Nat) : Bool := g.inflight n || 64 ≤ g.evq.length + g.flying.length

/-- A slot whose command's batch is closed as batch n. -/
def HSlot.close (n : Nat) (h : HSlot) : HSlot :=
  match h with
  | .pending b dest => if b == 16 then .pending n dest else h
  | _ => h

/-- A batch completes: its record stands in the event queue (R177), and its pending slots are settled (R196). -/
def Workgroup.completeBatch (g : Workgroup) (n : Nat) : Workgroup :=
  { g with evq := g.evq ++ [recordOf n (g.batch n).cmds]
           slots := g.slots.map (HSlot.settle n)
           batches := g.batches.modify n fun b => { b with state := .complete } }

/-- The open batch becomes batch n; an empty one completes at once (R175). Earlier batches of the number stand aside. -/
def Workgroup.closeBatch (g : Workgroup) (n : Nat) : Workgroup :=
  let g' : Workgroup := { g with
    batches := g.batches.modify n fun _ => { state := .inflight, cmds := g.open_ }
    open_ := []
    slots := g.slots.map (HSlot.close n)
    hazards := g.hazards.map fun h =>
      if h.batch == 16 then { h with batch := n } else if h.batch % 32 == n then { h with batch := h.batch + 32 } else h }
  if g.open_.isEmpty then g'.completeBatch n else g'

/-- `bfence`. -/
def execBfence (o : Op3) (s : State) : Out :=
  wgWord o.ctl (fun it g =>
    let n := immNat o.a
    if g.fenceWaits n then it.wait it.s (.bfence n)
    else it.done (it.s.modWg it.core it.slot fun g => g.closeBatch n) o.ctl) s

/-- BATCH_COMPLETION (R177): every command of the batch has finished, its last pass included (R255). -/
def execBatchCompletion (core slot batch : Nat) (s : State) : Out :=
  .next (s.modWg core slot fun g =>
    if g.inflight batch && !cmdsPending (s.core core).passesRun (g.batch batch).cmds then g.completeBatch batch else g)

/-- The child for which a wait on some batches of a workgroup of core c yields (R303): its image. -/
def State.yieldOn (s : State) (c : Nat) (g : Workgroup) (ns : List Nat) : Option Nat :=
  let cs := ns.flatMap fun n => if g.inflight n then (g.batch n).cmds else []
  if g.saveWaits (s.core c).passesRun true then none
  else cs.findSome? fun q => match q.pend with
    | .child a => if s.childWaits g.vf a then some a else none
    | _ => none

/-- The yield of a waiting driver (R303), or the wait itself. -/
def DIssue.yieldOr (it : DIssue) (g : Workgroup) (ns : List Nat) (b : DBlock) : Out :=
  match it.s.yieldOn it.core g ns, it.s.launchOf g with
  | some a, some l =>
    .next ((it.s.saveWg (it.s.recMapOf l g.wgnum) it.core it.slot g false (some a)).trackRange g.vf
      (l.image.toNat + l.recOff it.s g.wgnum) (recBytes g.hdr))
  | _, _ => it.wait it.s b

/-- `bwait`. -/
def execBwait (o : Op3) (s : State) : Out :=
  wgWord o.ctl (fun it g =>
    let n := immNat o.a
    if g.inflight n then it.yieldOr g [n] (.bwait n)
    else it.done (it.s.modWg it.core it.slot fun g => g.release n) o.ctl) s

/-- The pop of the oldest record, which is of batch n (R178): that of the present batch of the number where no later record of it
stands and it is complete, else that of an earlier one. -/
def Workgroup.popped (g : Workgroup) (n : Nat) : Workgroup :=
  let later := (g.evq.filter fun r => bitsOf r.toNat 7 4 == n).length
  let age := if (g.batch n).state == .complete then later else later + 1
  let g := g.releaseOne (n + 32 * age)
  if age == 0 then { g with batches := g.batches.modify n fun _ => { state := .idle, cmds := [] } } else g

/-- `evpop`. -/
def execEvpop (o : Op3) (s : State) : Out :=
  wgWord o.ctl (fun it g =>
    match g.evq with
    | r :: q =>
      let n := bitsOf r.toNat 7 4
      it.put (it.s.modWg it.core it.slot fun g => ({ g with evq := q } : Workgroup).popped n) o.ctl o.d r
    | [] =>
      if o.var.getLsbD 0 || g.flying.isEmpty then it.put it.s o.ctl o.d (BitVec.allOnes 64)
      else it.yieldOr g g.flying .evpop) s

/-! Launches from the driver (R179, R302) -/

/-- CQN is in its range (R293). -/
def cqnOk (n : Nat) : Bool := 16 ≤ n && n ≤ 4096 && 2 ^ Nat.log2 n == n

/-- The status of a `launch` (R302); a queue with CQN out of its range takes no entry (log 59). -/
def State.launchStatus (s : State) (f region image : Nat) : Nat :=
  let n := s.dev f (region + 32) 2
  if s.eff f region 6 < s.dev f (image + 144) 1 || s.eff f region 7 < winBytes (s.dev f (image + 148) 4) / 1024 then 2
  else if !cqnOk n || (s.dev f (region + 36) 2 + 65536 - s.dev f (region + 34) 2) % 65536 == n then 1
  else 0

/-- The entry of a child launch, its image's ARG and PARENT, and the new CQTAIL (R302). -/
def State.queueChild (s : State) (f region image arg parent : Nat) : State :=
  let tail := s.dev f (region + 36) 2
  let e := s.dev f (region + 24) 8 + 64 * (tail % s.dev f (region + 32) 2)
  let s := s.devWrite f (image + 8) 8 arg
  let s := s.devWrite f (image + s.dev f (image + 48) 8 + 56) 8 parent
  let s := s.devWrite f e 8 image
  let s := s.devWrite f (e + 8) 8 region
  let s := (List.range 6).foldl (fun s i => s.devWrite f (e + 16 + 8 * i) 8 0) s
  s.devWrite f (region + 36) 2 ((tail + 1) % 65536)

/-- The first of some addresses of a function whose line another core than c holds pinned: line, its address (R228). -/
def State.devPin (s : State) (c f : Nat) (vas : List Nat) : Option (Nat × Nat) :=
  vas.findSome? fun va =>
    match s.devXlate f (va % 2 ^ 64) .read with
    | .ok pa => if (s.holder c (lineOf pa)).isSome then some (lineOf pa, va % 2 ^ 64 / 64 * 64) else none
    | .error _ => none

/-- What a `launch` reads and writes: the child's image, the region's queue, and the entry (R302). -/
def State.launchLines (s : State) (f region image : Nat) : List Nat :=
  [image, image + 48, image + 144, image + s.dev f (image + 48) 8 + 56, region, region + 192, region + 32,
   s.dev f (region + 24) 8 + 64 * (s.dev f (region + 36) 2 % s.dev f (region + 32) 2)]

/-- `launch`. -/
def execLaunch (o : Op3) (s : State) : Out :=
  wgWord o.ctl (fun it g =>
    let image := (it.val o.a).toNat
    let region := g.region.toNat
    match it.s.devPin it.core g.vf (it.s.launchLines g.vf region image) with
    | some p => it.holdDriver g p.1 p.2
    | none =>
    let st := it.s.launchStatus g.vf region image
    if st != 0 then it.put it.s o.ctl o.d (BitVec.ofNat 64 st)
    else
      let parent := match it.s.launchOf g with | some l => l.image.toNat + l.recOff it.s g.wgnum | none => 0
      let s := it.s.queueChild g.vf region image (it.val o.b).toNat parent
      let q : Cmd := { engine := 7, status := 0, data := 0, pend := .child image }
      it.put (s.modWg it.core it.slot fun g => g.joinBatch q { batch := 16 }) o.ctl o.d 0) s

end Sys2Proof.Machine
end

