-- ==== Sys2Proof/Machine/Kv.lean ====
section
/-!
DEFINITION. Cache pages (R182 to R190, R316 to R324): page handles and the home directory, the prefix hash table, page frames.
-/
namespace Sys2Proof.Machine

/-! Physical memory that a command reaches -/

/-- How a command's access at a physical address fails: status and address (R181). -/
def State.physFail (s : State) (a : Access) (pa : Nat) : Option (Nat × Nat) :=
  if !populated pa then some (2, pa) else if s.accPoison a [pa] then some (3, pa) else none

/-- A number at a physical address. -/
def State.physNat (s : State) (a : Access) (pa n : Nat) : Nat := leNat ((List.range n).map fun i => s.accByte a (pa + i))

/-- Writes a number at a physical address. -/
def State.physWrite (s : State) (a : Access) (pa n v : Nat) : State := s.store a (bytesAt pa (leBytes n v))

/-- Runs a command unless another core holds one of its physical lines pinned (R229). -/
def DIssue.unpinnedAt (it : DIssue) (g : Workgroup) (pas : List Nat) (k : Unit → Out) : Out :=
  match it.s.firstPin it.core (pas.map lineOf) with
  | some ln => it.hold g (some (ln, 64 * ln)) (k ())
  | none => k ()

/-! Handles and the directory (R316, R317, R319) -/

def hNode (h : Nat) : Nat := bitsOf h 63 52
def hIndex (h : Nat) : Nat := bitsOf h 51 8
def hGen (h : Nat) : Nat := h % 256

/-- An entry of a page directory. -/
structure DirEnt where
  owner : Nat
  frame : Nat
  gen   : Nat
  state : Nat
  deriving DecidableEq, Repr, Inhabited

/-- An entry, read through some access to the home node's memory. -/
def dirEnt (rd : Nat → Nat → Nat) (base i : Nat) : DirEnt :=
  let w := rd (base + 32 * i + 16) 8
  { owner := rd (base + 32 * i) 8, frame := rd (base + 32 * i + 8) 8 % 2 ^ 52, gen := bitsOf w 15 8, state := w % 256 }

/-- The handle is current (R317). -/
def DirEnt.current (e : DirEnt) (h dirn : Nat) : Bool := hIndex h < dirn && e.gen == hGen h && e.state != 0

/-- The physical address of the own directory's entry of a handle. -/
def State.dirPa (s : State) (h : Nat) : Nat := s.img.dirbase + 32 * hIndex h

/-- The own directory's entry of a handle. -/
def State.ownEnt (s : State) (a : Access) (h : Nat) : DirEnt := dirEnt (s.physNat a) s.img.dirbase (hIndex h)

/-- Flits of 240 payload bytes leave a port: they take the next sequence numbers, and the last 128 stay for a replay (R367). What they
carry is open. A flit that has left the buffer has progressed: its replays count no more. -/
def Port.send (p : Port) (ctr n : Nat) : Port :=
  let new := (List.range n).map fun i =>
    ((p.txSeq + i) % 4096, (List.range 240).map fun j => Config.freeBits 8 ctr (2 ^ 40 + 240 * i + j))
  let all := p.buffer ++ new
  let kept := all.drop (all.length - Config.replayFlits)
  { p with txSeq := (p.txSeq + n) % 4096, buffer := kept,
           replays := if kept.any (·.1 == p.replaying) && n < 4096 then p.replays else 0 }

/-- The traffic of a command for another module, over the function's lowest port that is up; how many flits it takes is open (log 29). -/
def State.sendOver (s : State) (f : Nat) : State :=
  match s.portFor f with
  | none => s
  | some p => { s.bump with ports := s.ports.modify p fun x => x.send s.free (Config.freeNat s.free 60 % 4096 + 1) }

/-- Traffic goes out for a bucket in another module's memory (R323, R367). -/
def State.sendFar (s : State) (a : Access) (bk : Nat) : State :=
  match s.touchPa a { va := bk % 2 ^ 64, n := 1, need := .read } with
  | some pa => if pa < 2 ^ 64 then s else s.sendOver a.vf
  | none => s

/-- The key of a physical address of a peer. -/
def Peer.key (p : Peer) (pa : Nat) : Nat := peerKey p.node pa

/-- Bytes of a peer's memory come poisoned (R361). -/
def State.farBad (s : State) (p : Peer) (pa n : Nat) : Bool :=
  s.poison.any fun ln => p.key pa / 64 ≤ ln && ln ≤ (p.key pa + n - 1) / 64

/-- The physical address of a peer's directory entry, and the entry. -/
def Peer.dirPa (p : Peer) (h : Nat) : Nat := p.dirbase + 32 * hIndex h
def State.farEnt (s : State) (p : Peer) (h : Nat) : DirEnt := dirEnt s.mem.nat (p.key p.dirbase) (hIndex h)

/-- A peer's directory entry of a handle, where it can be read: past the directory, or poisoned, it cannot (R181, R317, R361). -/
def State.farDirFail (s : State) (p : Peer) (h : Nat) : Option (Nat × Nat) :=
  if p.dirn ≤ hIndex h then some (4, 0) else if s.farBad p (p.dirPa h) 32 then some (3, failData (p.dirPa h)) else none

/-- OWNER of a workgroup's region (R317). -/
def Workgroup.ownerWord (g : Workgroup) : Nat := g.vf * 2 ^ 57 + g.region.toNat % 2 ^ 57

/-! Key blocks and hash tables (R182, R183, R321, R322) -/

/-- The 26 key words of a key block. -/
def State.keyWords (s : State) (c kp : Nat) : List Nat := (List.range 26).map fun i => s.scrNat c (kp + 8 * i) 8

/-- A reserved bit of the key block is set. -/
def keyBad (ws : List Nat) : Bool :=
  ws.getD 1 0 / 2 ^ 48 != 0 || (ws.drop 2).any fun w => bitsOf w 63 52 != 0 || bitsOf w 31 20 != 0

/-- FOLD64 (R322). -/
def fold64 (ws : List Nat) : Nat :=
  (dhashFin (ws.foldl (fun h w => dhashStep h (BitVec.ofNat 64 w)) 0x9E37_79B9_7F4A_7C15)).toNat

/-- The 48 tokens as a tag (R321): token k at bit 20k. -/
def keyTag (ws : List Nat) : Nat :=
  ((List.range 24).map fun k =>
    let w := ws.getD (2 + k) 0
    (w % 2 ^ 20 + bitsOf w 51 32 * 2 ^ 20) * 2 ^ (40 * k)).sum

/-- A malformed table descriptor: the trap (R183). -/
def tableTrap (b n : W64) : Option TrapInfo :=
  if !canonical b.toNat || b.toNat % 64 != 0 then some { cls := .addr, x := b.toNat }
  else if n.toNat / 64 != 0 || n.toNat == 0 || 40 < n.toNat then some { cls := .addr, x := n.toNat }
  else none

/-- The virtual address of the key's bucket. -/
def bucketVa (base n : Nat) (ws : List Nat) : Nat := (base + 1536 * (fold64 ws % 2 ^ n)) % 2 ^ 64

/-- Entry `w` of a bucket, read in some way, matches the key (R184). -/
def entryMatches (rd : Nat → Nat → Nat) (bk : Nat) (ws : List Nat) (w : Nat) : Bool :=
  let e := bk + 192 * w
  rd (e + 24) 8 % 2 == 1 && rd (e + 8) 8 == ws.getD 0 0 && rd (e + 16) 8 % 2 ^ 48 == ws.getD 1 0 % 2 ^ 48 && rd (e + 32) 120 == keyTag ws

/-- The way of the matching entry. -/
def State.findEntry (s : State) (a : Access) (bk : Nat) (ws : List Nat) : Option Nat :=
  (List.range 8).find? (entryMatches (s.touchNat a) bk ws)

/-- A number written by a command through the function's table. -/
def State.touchPut (s : State) (a : Access) (va n v : Nat) : State := s.touchStore a (touches va n .write) (leBytes n v)

/-- Adds to an entry's refcount (R184, R185). -/
def State.addRef (s : State) (a : Access) (e : Nat) (d : Int) : State :=
  s.touchPut a (e + 28) 4 (((s.touchNat a (e + 28) 4 : Int) + d) % 2 ^ 32).toNat

/-- Writes a result word. -/
def State.result (s : State) (a : Access) (rp n v : Nat) : State := s.scrWriteCmd a.core a.slot (bytesAt rp (leBytes n v))

/-- The effect of `kvfind` (R184). It needs write permission on the table only where it changes a count (log 28). -/
def kvfindRun (a : Access) (mode rp kp base n : Nat) (s : State) : State × Nat × Nat :=
  let ws := s.keyWords a.core kp
  let bk := bucketVa base n ws
  if keyBad ws then (s, 1, 0)
  else
    match s.touchFail a (touches bk 1536 .read) with
    | some (st, va) => (s, st, failData va)
    | none =>
      let s := (s.sendFar a bk).touchRead a (touches bk 1536 .read)
      match s.findEntry a bk ws with
      | none => (s.result a rp 8 0, 6, 0)
      | some w =>
        let e := bk + 192 * w
        let h := s.touchNat a e 8
        let r := s.touchNat a (e + 28) 4
        if mode == 0 then (s.result a rp 8 h, 0, w * 2 ^ 16)
        else if mode != 1 && r == 0 then (s, 11, 0)
        else
          match s.touchFail a (touches (e + 24) 8 .rw) with
          | some (st, va) => (s, st, failData va)
          | none =>
            if mode == 1 then ((s.addRef a e 1).result a rp 8 h, 0, w * 2 ^ 16)
            else ((s.addRef a e (-1)).result a rp 8 h, 0, dataBit (r == 1) 16)

/-- What `kvfind` and `kvins` check at issue: result and key descriptors, then the table. -/
def kvKeyed (i : Instr) (o : Op3) (body : DIssue → Workgroup → Nat → Nat → Nat → Out) (s : State) : Out :=
  cmdWord i o.ctl (fun it g =>
    let dv := it.val o.d
    let av := it.val o.a
    let bv := it.param o.b 0
    let nv := it.param o.b 1
    let r := copySpd g dv 1 8 0 true
    let k := spd g av 1 208 (spdPitch av) false
    match spdTrap [r, k] with
    | some t => it.trap t
    | none =>
      match tableTrap bv nv with
      | some t => it.trap t
      | none => if spdStale [r, k] then it.only g o.ctl 3 4 0 else body it g r.pa k.pa k.org) s

/-- `kvfind` in a mode. -/
def kvfindOp (mode : Nat) (o : Op3) (s : State) : Out :=
  kvKeyed (if mode == 0 then .kvfindLook o else if mode == 1 then .kvfindRef o else .kvfindUnref o) o (fun it g rp kp org =>
    let a := it.engAccess g 2 0
    let base := (it.param o.b 0).toNat
    let n := (it.param o.b 1).toNat
    let bk := bucketVa base n (it.s.keyWords it.core kp)
    it.unpinned g a (touches bk 1536 .read) fun _ =>
      it.run g o.ctl { cls := 3, reads := [(kp, 208, org)], writes := [(rp, 8)], run := kvfindRun a mode rp kp base n }) s

def execKvfindLook (o : Op3) (s : State) : Out := kvfindOp 0 o s
def execKvfindRef (o : Op3) (s : State) : Out := kvfindOp 1 o s
def execKvfindUnref (o : Op3) (s : State) : Out := kvfindOp 2 o s

/-! `kvins` (R185) -/

/-- Fills an entry: the page, the key, and then VALID with one reference (R321). -/
def State.fillEntry (s : State) (a : Access) (e h : Nat) (ws : List Nat) : State :=
  let s := s.touchPut a e 8 h
  let s := s.touchPut a (e + 8) 8 (ws.getD 0 0)
  let s := s.touchPut a (e + 16) 8 (ws.getD 1 0)
  let s := s.touchPut a (e + 32) 120 (keyTag ws)
  s.touchPut a (e + 24) 8 (2 ^ 32 + 1)

/-- Steps 4 to 6 of `kvins`. Write permission is asked of what is written: the count of a matching entry, or the free entry. -/
def kvinsTable (a : Access) (rp bk h frame : Nat) (ws : List Nat) (s : State) : State × Nat × Nat :=
  match s.touchFail a (touches bk 1536 .read) with
  | some (st, va) => (s, st, failData va)
  | none =>
    let s := (s.sendFar a bk).touchRead a (touches bk 1536 .read)
    match s.findEntry a bk ws with
    | some w =>
      let e := bk + 192 * w
      match s.touchFail a (touches (e + 28) 4 .rw) with
      | some (st, va) => (s, st, failData va)
      | none => ((s.addRef a e 1).result a rp 8 (s.touchNat a e 8), 0, 2 ^ 16)
    | none =>
      let free := (List.range 8).filter fun w => s.touchNat a (bk + 192 * w + 24) 8 % 2 == 0
      if free.isEmpty then (s.result a rp 8 0, 5, 0)
      else
        let w := free.getD (Config.freeNat s.free 0 % free.length) 0
        match s.touchFail a (touches (bk + 192 * w) 192 .rw) with
        | some (st, va) => (s, st, failData va)
        | none =>
          let s := s.bump.fillEntry a (bk + 192 * w) h ws
          let s := s.physWrite a (frame + 9) 1 (Nat.lor (s.physNat a (frame + 9) 1) 1)
          let s := s.physWrite a (s.dirPa h + 16) 1 2
          (s.result a rp 8 h, 0, 0)

/-- A bucket command that a peer issues on a table of this module, performed at the home slice as one step (R184, R185, R323; log 23):
mode 0 to 2 as `kvfind` has them, 3 for steps 4 and 6 of a `kvins` of page h, whose frame is the peer's: result word, status, DATA. -/
def State.peerBucket (s : State) (bk mode h : Nat) (ws : List Nat) : State × Nat × Nat × Nat :=
  let ref (s : State) (e r : Nat) : State := s.writeL2Nat (e + 28) 4 (r % 2 ^ 32)
  match (List.range 8).find? (entryMatches s.mem.nat bk ws) with
  | some w =>
    let e := bk + 192 * w
    let r := s.mem.nat (e + 28) 4
    let page := s.mem.nat e 8
    if mode == 0 then (s, page, 0, w * 2 ^ 16)
    else if mode == 1 then (ref s e (r + 1), page, 0, w * 2 ^ 16)
    else if mode == 2 then (if r == 0 then (s, 0, 11, 0) else (ref s e (r - 1), page, 0, dataBit (r == 1) 16))
    else (ref s e (r + 1), page, 0, 2 ^ 16)
  | none =>
    if mode != 3 then (s, 0, 6, 0)
    else
      let free := (List.range 8).filter fun w => s.mem.nat (bk + 192 * w + 24) 8 % 2 == 0
      if free.isEmpty then (s, 0, 5, 0)
      else
        let e := bk + 192 * free.getD (Config.freeNat s.free 0 % free.length) 0
        let s := s.bump.writeL2Nat e 8 h
        let s := ((s.writeL2Nat (e + 8) 8 (ws.getD 0 0)).writeL2Nat (e + 16) 8 (ws.getD 1 0)).writeL2Nat (e + 32) 120 (keyTag ws)
        (s.writeL2Nat (e + 24) 8 (2 ^ 32 + 1), h, 0, 0)

/-- The regions of a command for another module that does not answer: it waits for the time-out, or has status 7 at once where the
function has no way there (R339, R367). -/
def State.unanswered (s : State) (f : Nat) (w : Work) : Work :=
  if (s.portFor f).isSome then { w with pend := .peer s.clock, run := fun s => (s.sendOver f, 0, 0) }
  else { w with run := fun s => (s, 7, 0) }

/-- The frame that a handle of this module names, as a physical range: an operand of the commands that reach it so (R190). -/
def State.handleFrame (s : State) (en : DirEnt) (h : Nat) : List (Nat × Nat) :=
  if en.current h s.img.dirn then [(en.frame, frameBytes (s.frameDim en.frame))] else []

/-- The effect of `kvins` on a handle of this module. -/
def kvinsRun (a : Access) (own : Nat) (rp kp base n h : Nat) (s : State) : State × Nat × Nat :=
  let ws := s.keyWords a.core kp
  let en := s.ownEnt a h
  if s.img.dirn ≤ hIndex h then (s, 4, 0)
  else
    match s.physFail a (s.dirPa h) with
    | some (st, pa) => (s, st, failData pa)
    | none =>
      if !en.current h s.img.dirn then (s, 4, 0)
      else if en.owner != own || en.state == 2 then (s, 11, 0)
      else
        match s.physFail a en.frame with
        | some (st, pa) => (s, st, failData pa)
        | none =>
          if s.physNat a (en.frame + 8) 1 != 48 || s.physNat a (en.frame + 16) 8 != ws.getD 0 0 || keyBad ws then (s, 1, 0)
          else kvinsTable a rp (bucketVa base n ws) h en.frame ws s

/-- `kvins`. -/
def execKvins (o : Op3) (s : State) : Out :=
  kvKeyed (.kvins o) o (fun it g rp kp org =>
    let a := it.engAccess g 2 0
    let base := (it.param o.b 0).toNat
    let n := (it.param o.b 1).toNat
    let h := (it.param o.b 2).toNat
    let w : Work := { cls := 3, reads := [(kp, 208, org)], writes := [(rp, 8)], run := fun s => (s, 0, 0) }
    if hNode h != it.s.img.nodeid then
      match it.s.peer? g.vf (hNode h) with
      | none => it.run g o.ctl (it.s.unanswered g.vf w)
      | some p =>
        let en := it.s.farEnt p h
        it.run g o.ctl { w with run := fun s =>
          (s.sendOver g.vf, (it.s.farDirFail p h).getD (if en.current h p.dirn then 11 else 4, 0)) }
    else
      let bk := bucketVa base n (it.s.keyWords it.core kp)
      let en := it.s.ownEnt a h
      it.unpinned g a (touches bk 1536 .read) fun _ =>
        it.unpinnedAt g (it.s.dirPa h :: (if hIndex h < it.s.img.dirn then [en.frame] else [])) fun _ =>
          it.run g o.ctl { w with attn := it.s.handleFrame en h, kv := (it.s.handleFrame en h).map fun r => (r.1 + 9, 1)
                                  run := kvinsRun a g.ownerWord rp kp base n h }) s

/-! Page frames: `kvapp` and `kvtrim` (R186, R187, R319) -/

/-- A frame address that is not canonical or not a multiple of 64. -/
def frameTrap (v : W64) : Option TrapInfo :=
  if !canonical v.toNat || v.toNat % 64 != 0 then some { cls := .addr, x := v.toNat } else none

/-- The caller owns the frame, and it is private (R186, R319). -/
def State.ownsFrame (s : State) (a : Access) (own va : Nat) : Bool :=
  let h := s.touchNat a va 8
  let en := s.ownEnt a h
  hNode h == s.img.nodeid && en.current h s.img.dirn && en.state == 1 && en.owner == own
    && s.touchPa a { va := va, n := 8, need := .read } == some en.frame

/-- A failure to read the header, or the directory entry that it names. -/
def State.headerFail (s : State) (a : Access) (va : Nat) : Option (Nat × Nat) :=
  match s.touchFail a (touches va 64 .read) with
  | some f => some f
  | none =>
    let h := s.touchNat a va 8
    if hNode h == s.img.nodeid && hIndex h < s.img.dirn then s.physFail a (s.dirPa h) else none

/-- An `attn` in flight that reads the frame, given by its physical ranges, loses its output tiles (R190). -/
def State.spoilAttn (s : State) (frame : List (Nat × Nat)) : State :=
  s.residents.foldl (fun s p => p.2.2.hazards.foldl (fun s h =>
    if h.cls == 1 && rangesMeet h.attn frame && p.2.2.flies h then s.spoil p.1 p.2.1 h else s) s) s

/-- The physical address of the directory entry that a frame's header names, as a list (R319). -/
def State.headerEnt (s : State) (a : Access) (va : Nat) : List Nat :=
  let h := s.touchNat a va 8
  if hNode h == s.img.nodeid && hIndex h < s.img.dirn then [s.dirPa h] else []

/-- One V channel of an append (R186): scale exponent and entries, as they were and as they become, and whether it was raised. -/
structure Channel where
  exp    : Int
  old    : List Int
  q      : Int
  raised : Bool

/-- rne(x × 2^k) as a signed integer. -/
def rneInt (n : Bool) (m : Nat) (e : Int) : Int := signed n (roundInt 0 n m e)

/-- The arithmetic of an append on one channel (R186). -/
def appendChannel (hr : Int) (vc : Nat) (v : FVal) (e0 : Int) (old : List Int) : Channel :=
  match v with
  | .fin n m x =>
    let e := if vc == 0 then (if m == 0 then -127 else max (-127) ((Nat.log2 m : Int) + x - 6 + hr)) else e0
    let q := rneInt n m (x - e)
    if 127 < q.natAbs then
      let k := ((List.range 512).find? fun (k : Nat) => (rneInt n m (x - (e + ((k + 1 : Nat) : Int)))).natAbs ≤ 127).getD 0 + 1
      { exp := e + (k : Int), old := old.map fun y => rneInt (decide (y < 0)) y.natAbs (-(k : Int))
        q := rneInt n m (x - (e + (k : Int))), raised := true }
    else { exp := e, old := old, q := q, raised := false }
  | _ => { exp := e0, old := old, q := 0, raised := false }

/-- A token record (R186), as bytes. -/
structure TokenRec where
  bytes : List Byte

def TokenRec.at_ (r : TokenRec) (i : Nat) : Nat := (r.bytes.getD i 0).toNat
def TokenRec.vcode (r : TokenRec) (d c : Nat) : Nat := r.at_ (d + 8 + 2 * c) + 256 * r.at_ (d + 9 + 2 * c)

/-- A bad field of the token record: a used scale byte 255, a nonzero higher byte, a V value that is not finite. -/
def TokenRec.bad (r : TokenRec) (d : Nat) : Bool :=
  (List.range (d / 48)).any (fun b => r.at_ (d + b) == 255)
    || (List.range 8).any (fun b => d / 48 ≤ b && r.at_ (d + b) != 0)
    || (List.range d).any (fun c => match fBF16.decode (r.vcode d c) with | .fin .. => false | _ => true)

/-- One byte of an I8. -/
def byteOf (x : Int) : Byte := BitVec.ofInt 8 x

/-- Replaces bytes of a frame from an offset. -/
def putBytes (bs : List Byte) (off : Nat) (xs : List Byte) : List Byte := bs.take off ++ xs ++ bs.drop (off + xs.length)

/-- The frame after an append, and how many channels were raised (R186). -/
def appendFrame (f : Frame) (r : TokenRec) (d : Nat) (hr : Int) : List Byte × Nat :=
  let vc := f.valid
  let chs := (List.range d).map fun c =>
    appendChannel hr vc (fBF16.decode (r.vcode d c)) ((f.vscale c : Int) - 127) ((List.range vc).map fun j => f.v d j c)
  let raised := (chs.filter (·.raised)).length
  let row (j : Nat) : List Byte := chs.map fun ch => byteOf (if j < vc then ch.old.getD j 0 else ch.q)
  let bs := putBytes f.bytes (512 + 48 * d) ((List.range (vc + 1)).flatMap row)
  let bs := putBytes bs (256) (chs.map fun ch => BitVec.ofInt 8 (ch.exp + 127))
  let bs := putBytes bs (512 + d * vc) ((List.range d).map fun c => BitVec.ofNat 8 (r.at_ c))
  let bs := putBytes bs (64 + 4 * vc) ((List.range 4).map fun b => BitVec.ofNat 8 (r.at_ (d + b)))
  let fl := f.at_ 9
  let fl := if raised != 0 then Nat.lor fl 2 else if vc == 0 then fl - fl / 2 % 2 * 2 else fl
  (putBytes bs 8 [BitVec.ofNat 8 (vc + 1), BitVec.ofNat 8 fl], raised)

/-- Headroom of VAR[1:0] (R183). -/
def headroom (v : Nat) : Int := match v with | 0 => 1 | 1 => 0 | 2 => 2 | _ => 3

/-- The effect of `kvapp` (R186); `leg` is the leg of a tagged append, whose round may have ended without it by now (`trim`). -/
def kvappRun (a : Access) (own : Nat) (va d tp : Nat) (hr : Int) (leg : Option Nat) (trim : Bool) (s : State) :
    State × Nat × Nat :=
  match s.headerFail a va with
  | some (st, x) => (s, st, failData x)
  | none =>
    let w8 := s.touchNat a (va + 8) 2
    if !s.ownsFrame a own va || w8 / 256 % 2 == 1 then (s, 11, 0)
    else if 48 ≤ w8 % 256 then (s, 5, 0)
    else
      let r : TokenRec := { bytes := s.scrBytes a.core tp (3 * d + 8) }
      let ts := touches va (frameBytes d) .rw
      if r.bad d then (s, 1, 0)
      else
        match s.touchFail a ts with
        | some (st, x) => (s, st, failData x)
        | none =>
          let as := s.touchBytes a ts
          let pa := as.headD 0
          let s := (s.namesDim pa d).touchRead a ts
          let f : Frame := { bytes := as.map (s.accByte a) }
          let n := appendFrame f r d hr
          let s := (s.touchStore a ts n.1).spoilAttn (s.touchRanges a ts)
          let app : Append := { leg := leg.getD 0, pa, va, before := f.valid, d }
          let s := match leg with
            | some _ => s.modWg a.core a.slot fun g => g.modRelay fun q => { q with appends := q.appends ++ [app] }
            | none => s
          let s := if trim then s.trimAppend a.vf app else s
          (s, 0, dataBit (n.2 != 0) 16 + n.2 * 2 ^ 24 + (f.valid + 1) * 2 ^ 40)

/-- `kvapp`. -/
def execKvapp (o : Op3) (s : State) : Out :=
  cmdWord (.kvapp o) o.ctl (fun it g =>
    let lt := o.xtBit 3
    let leg := o.xt.toNat % 8
    let dv := it.val o.d
    let av := it.val o.a
    let p := (it.val o.b).toNat
    let d := headDim (p % 4)
    let a := it.engAccess g 2 0
    let runs := match g.relay with | some r => decide (leg < r.width) | none => false
    let old := it.s.replayed g
    let tag := match old with | some q => q.leg | none => if lt then some leg else none
    if old.isNone && lt && (!g.hdr.relay || !runs) then it.trap { cls := .ill }
    else
      match frameTrap dv with
      | some t => it.trap t
      | none =>
        let t := spd g av 1 (3 * d + 8) (spdPitch av) false
        match spdTrap [t] with
        | some t => it.trap t
        | none =>
          if spdStale [t] then it.only g o.ctl 3 4 0
          else if p / 4 != 0 then it.only g o.ctl 3 1 0
          else
            let ts := touches dv.toNat (frameBytes d) .read
            let frame := it.s.touchRanges a ts
            let go (_ : Unit) : Out := it.run g o.ctl
              { cls := 3, leg := tag, reads := [(t.pa, 3 * d + 8, t.org)], gwrites := frame, kv := frame
                run := kvappRun a g.ownerWord dv.toNat d t.pa (headroom (o.var.toNat % 4)) tag (old.elim false (·.trim)) }
            match it.s.touchPin a ts with
            | some p => it.hold g (some p) (go ()) tag
            | none =>
              match it.s.firstPin it.core ((it.s.headerEnt a dv.toNat).map lineOf) with
              | some ln => it.hold g (some (ln, 64 * ln)) (go ()) tag
              | none => go ()) s

/-- The effect of `kvtrim` (R187). The rule orders neither status where u is too great on a frame that is published or another's:
the model gives 11 (log 56). Slots u up to the old count become unspecified, and those above it keep their bytes (R284; log 27). -/
def kvtrimRun (a : Access) (own : Nat) (va u : Nat) (s : State) : State × Nat × Nat :=
  match s.headerFail a va with
  | some (st, x) => (s, st, failData x)
  | none =>
    let w8 := s.touchNat a (va + 8) 2
    let vc := w8 % 256
    if !s.ownsFrame a own va || w8 / 256 % 2 == 1 then (s, 11, vc % 64 * 2 ^ 40)
    else if vc < u || 48 < u then (s, 1, vc % 64 * 2 ^ 40)
    else if u == vc then (s, 0, u * 2 ^ 40)
    else
      match s.touchFail a (touches va 64 .rw) with
      | some (st, x) => (s, st, failData x)
      | none =>
        let pa := (s.touchBytes a (touches va 64 .rw)).headD 0
        let n := frameBytes (s.frameDim pa)
        let s := ((s.touchPut a (va + 8) 1 u).trimSlots a.core pa u vc).trackRange a.vf va n
        (s.spoilAttn [(pa, n)], 0, u * 2 ^ 40)

/-- `kvtrim`. -/
def execKvtrim (o : Op3) (s : State) : Out :=
  cmdWord (.kvtrim o) o.ctl (fun it g =>
    let dv := it.val o.d
    let a := it.engAccess g 2 0
    match frameTrap dv with
    | some t => it.trap t
    | none =>
      let ts := touches dv.toNat 64 .read
      let frame := match it.s.touchPa a { va := dv.toNat, n := 8, need := .read } with
        | some pa => [(pa, frameBytes (it.s.frameDim pa))]
        | none => []
      it.unpinned g a ts fun _ => it.unpinnedAt g (it.s.headerEnt a dv.toNat) fun _ =>
        it.run g o.ctl { cls := 3, gwrites := it.s.touchRanges a ts, kv := frame
                         run := kvtrimRun a g.ownerWord dv.toNat (it.val o.a).toNat }) s

/-! `kvown` and `kvpull` (R188, R189) -/

/-- The two words of a `kvown` result. -/
def ownWords (en : DirEnt) (valid : Nat) : Nat × Nat :=
  (if en.state == 0 then 0 else en.owner, (if en.state == 1 then valid else 0) * 2 ^ 16 + en.gen * 256 + en.state)

/-- The effect of `kvown` on a handle of this module. -/
def kvownRun (a : Access) (rp h : Nat) (s : State) : State × Nat × Nat :=
  if s.img.dirn ≤ hIndex h then (s.result a rp 16 0, 4, 0)
  else
    match s.physFail a (s.dirPa h) with
    | some (st, pa) => (s, st, failData pa)
    | none =>
      let en := s.ownEnt a h
      match (if en.state == 1 then s.physFail a en.frame else none) with
      | some (st, pa) => (s, st, failData pa)
      | none =>
        let w := ownWords en (s.physNat a (en.frame + 8) 1)
        (s.result a rp 16 (w.1 + w.2 * 2 ^ 64), if en.current h s.img.dirn then 0 else 4, 0)

/-- The effect of `kvown` on a handle of another module. -/
def kvownPeer (a : Access) (rp h : Nat) (p : Peer) (s : State) : State × Nat × Nat :=
  if p.dirn ≤ hIndex h then (s.result a rp 16 0, 4, 0)
  else
    match s.farDirFail p h with
    | some x => (s, x)
    | none =>
    let en := s.farEnt p h
    let w := ownWords en (s.mem.nat (p.key en.frame + 8) 1)
    if en.state == 1 && s.farBad p en.frame 64 then (s, 3, failData en.frame)
    else (s.result a rp 16 (w.1 + w.2 * 2 ^ 64), if en.current h p.dirn then 0 else 4, 0)

/-- `kvown`. -/
def execKvown (o : Op3) (s : State) : Out :=
  cmdWord (.kvown o) o.ctl (fun it g =>
    let h := (it.val o.a).toNat
    let a := it.engAccess g 2 0
    let r := copySpd g (it.val o.d) 1 16 0 true
    match spdTrap [r] with
    | some t => it.trap t
    | none =>
      let w : Work := { cls := 3, writes := [(r.pa, 16)], run := fun s => (s, 0, 0) }
      if spdStale [r] then it.only g o.ctl 3 4 0
      else if hNode h != it.s.img.nodeid then
        match it.s.peer? g.vf (hNode h) with
        | none => it.run g o.ctl (it.s.unanswered g.vf w)
        | some p => it.run g o.ctl { w with run := fun s => kvownPeer a r.pa h p (s.sendOver g.vf) }
      else
        let en := it.s.ownEnt a h
        it.unpinnedAt g (if hIndex h < it.s.img.dirn then it.s.dirPa h :: (if en.state == 1 then [en.frame] else []) else []) fun _ =>
          it.run g o.ctl { w with attn := if en.state == 1 then it.s.handleFrame en h else [], run := kvownRun a r.pa h }) s

/-- The copy of a published frame into the local frame (R189): `src` gives the source's bytes. Where it fails, what it has written is
unspecified (R181). -/
def pullInto (a : Access) (va d : Nat) (src : Nat → Byte) (remote : Bool) (s : State) : State × Nat × Nat :=
  let ts := touches va (frameBytes d) .write
  match s.touchFail a ts with
  | some (st, x) => (s.touchFree a ts 3, st, failData x)
  | none => (s.touchWrite a ts ((List.range (frameBytes d)).map src) 3, 0, dataBit remote 16)

/-- The effect of `kvpull` from this module: the whole copy is made at one moment, so that the generation never changes during it. -/
def kvpullRun (a : Access) (va d h : Nat) (s : State) : State × Nat × Nat :=
  if s.img.dirn ≤ hIndex h then (s, 4, 0)
  else
    match s.physFail a (s.dirPa h) with
    | some (st, pa) => (s, st, failData pa)
    | none =>
      let en := s.ownEnt a h
      if !en.current h s.img.dirn then (s, 4, 0)
      else if en.state != 2 then (s, 11, 0)
      else
        match (List.range ((frameBytes d + 63) / 64)).findSome? fun i => s.physFail a (en.frame + 64 * i) with
        | some (st, pa) => (s.touchFree a (touches va (frameBytes d) .write) 3, st, failData pa)
        | none =>
          let m := s
          pullInto a va d (fun i => m.accByte a (en.frame + i)) false s

/-- The line of a byte that a command has written becomes poisoned. -/
def State.poisonAt (s : State) (a : Access) (va : Nat) : State :=
  match s.touchPa a { va, n := 1, need := .write } with
  | some pa => s.poisonLine a (lineOf pa)
  | none => s

/-- A peer has retired the page of a handle and given its entry to another (R318): the next generation, private. -/
def State.farReuse (s : State) (p : Peer) (h : Nat) : State :=
  s.writeL2Nat (p.key (p.dirPa h) + 16) 2 ((if hGen h == 255 then 1 else hGen h + 1) * 256 + 1)

/-- The effect of `kvpull` from another module. Poisoned lines come poisoned, with status 3 (R181, R361; log 38). Whether the home
retires the page and reuses its entry during the copy is open: then the status is 4 and the destination unspecified. -/
def kvpullPeer (a : Access) (va d h : Nat) (p : Peer) (s : State) : State × Nat × Nat :=
  match s.farDirFail p h with
  | some x => (s, x)
  | none =>
    let en := s.farEnt p h
    if !en.current h p.dirn then (s, 4, 0)
    else if en.state != 2 then (s, 11, 0)
    else
      let ts := touches va (frameBytes d) .write
      let bad := (List.range (frameBytes d / 64)).filter fun i => s.farBad p (en.frame + 64 * i) 64
      if (s.touchFail a ts).isNone && !bad.isEmpty then
        (bad.foldl (fun s i => s.poisonAt a (va + 64 * i)) (s.touchFree a ts 3), 3, failData (en.frame + 64 * bad.headD 0))
      else if (s.touchFail a ts).isNone && Config.freeNat s.free 61 % 2 == 1 then
        ((s.touchFree a ts 3).farReuse p h, 4, 0)
      else pullInto a va d (fun i => s.mem.read (p.key en.frame + i)) true s

/-- `kvpull`. -/
def execKvpull (o : Op3) (s : State) : Out :=
  cmdWord (.kvpull o) o.ctl (fun it g =>
    let dv := it.val o.d
    let h := (it.val o.a).toNat
    let p := (it.val o.b).toNat
    let d := headDim (p % 4)
    let a := it.engAccess g 2 0
    match frameTrap dv with
    | some t => it.trap t
    | none =>
      if p / 4 != 0 then it.only g o.ctl 3 1 0
      else
        let ts := touches dv.toNat (frameBytes d) .write
        let w : Work := { cls := 3, gwrites := it.s.touchRanges a ts, kv := it.s.touchRanges a ts, run := fun s => (s, 0, 0) }
        it.unpinned g a ts fun _ =>
          if hNode h != it.s.img.nodeid then
            match it.s.peer? g.vf (hNode h) with
            | none => it.run g o.ctl (it.s.unanswered g.vf w)
            | some q => it.run g o.ctl { w with run := fun s => kvpullPeer a dv.toNat d h q (s.sendOver g.vf) }
          else
            let src := if hIndex h < it.s.img.dirn then
                it.s.dirPa h :: (List.range ((frameBytes d + 63) / 64)).map fun i => (it.s.ownEnt a h).frame + 64 * i
              else []
            it.unpinnedAt g src fun _ => it.run g o.ctl { w with run := kvpullRun a dv.toNat d h }) s

end Sys2Proof.Machine
end

