-- ==== Sys2Proof/Machine/Weights.lean ====
section
/-!
DEFINITION. Weight sets (R191 to R195, R325 to R327).
-/
namespace Sys2Proof.Machine

/-! Table entries (R325) -/

/-- An entry of a weight-set table. -/
structure WsEntry where
  slotA   : Nat
  slotB   : Nat
  size    : Nat
  valid   : Bool
  sel     : Bool
  version : Nat
  refA    : Nat
  refB    : Nat
  deriving DecidableEq, Repr, Inhabited

/-- An entry at an address, through some access. -/
def wsEntry (rd : Nat → Nat → Nat) (a : Nat) : WsEntry :=
  let w := rd (a + 24) 8
  { slotA := rd a 8, slotB := rd (a + 8) 8, size := rd (a + 16) 8, valid := w % 2 == 1, sel := w / 2 % 2 == 1,
    version := w / 2 ^ 32, refA := rd (a + 32) 4, refB := rd (a + 36) 4 }

def WsEntry.active (e : WsEntry) : Nat := if e.sel then e.slotB else e.slotA
def WsEntry.idle (e : WsEntry) : Nat := if e.sel then e.slotA else e.slotB

/-- The idle slot is busy: a workgroup still holds it (R193). -/
def WsEntry.idleBusy (e : WsEntry) : Bool := (if e.sel then e.refA else e.refB) != 0

/-- The virtual address of entry `e` of a region's table; none with WSTAB 0 (R325). -/
def State.wsVa (s : State) (f region e : Nat) : Option Nat :=
  let t := s.eff f region 14
  if t == 0 then none else some (t + 64 * e)

/-- The entry index of a weight-set word (R191); another index faults with ILL. -/
def wsWord (i : Instr) (o : Op3) (body : DIssue → Workgroup → Nat → Out) (s : State) : Out :=
  cmdWord i o.ctl (fun it g =>
    let e := (it.val o.a).toNat
    if 256 ≤ e then it.trap { cls := .ill } else body it g e) s

/-! `wsref` (R192) -/

/-- The wait of `wsref` for its table entry: as of a `dld` at the address, or of a `datom` where it counts (R120, R151; log 28). -/
def DIssue.wsGate (it : DIssue) (g : Workgroup) (a : Access) (va : Nat) (need : Need) (k : Unit → Out) : Out :=
  match it.s.translate it.core g.vf va need with
  | .error .addr => it.trap { cls := .addr, x := va }
  | .error .tran => it.wait it.s (.tran g.vf (va / 65536 * 65536))
  | .ok pa =>
    if (it.s.holder it.core (lineOf pa)).isSome then it.holdDriver g (lineOf pa) (va / 64 * 64)
    else if it.s.accPoison a ((List.range 64).map (pa + ·)) then it.trap { cls := .eccu, x := va }
    else k ()

/-- The line for which the first waiting command of a class waits. -/
def Workgroup.firstLine (g : Workgroup) (cls : Nat) : Nat :=
  ((g.open_ ++ g.batches.flatMap (·.cmds)).findSome? fun q => match q.pend with
    | .retry r => if q.engine == cls then r.line.map (·.1) else none
    | _ => none).getD 0

/-- `wsref`; it takes effect after the weight-set commands of its workgroup that wait (R182). -/
def execWsref (o : Op3) (s : State) : Out :=
  wsWord (.wsref o) o (fun it g e =>
    match it.s.wsVa g.vf g.region.toNat e with
    | none => it.put it.s o.ctl o.d 0
    | some va =>
      let a := it.engAccess g 2 0
      if g.orderWaits 16 g.open_.length 4 [] then it.holdDriver g (g.firstLine 4) 0 else
      it.wsGate g a va .read fun _ =>
        let s := it.s.touchRead a (touches va 64 .read)
        let x := wsEntry (s.touchNat a) va
        match g.captures.find? fun c => c.1 == e with
        | some c => it.put s o.ctl o.d (BitVec.ofNat 64 (if c.2 then x.slotB else x.slotA))
        | none =>
          if !x.valid then it.put s o.ctl o.d 0
          else it.wsGate g a va .rw fun _ =>
            let s := s.touchPut a (va + (if x.sel then 36 else 32)) 4 (((if x.sel then x.refB else x.refA) + 1) % 2 ^ 32)
            it.put (s.modWg it.core it.slot fun g => { g with captures := g.captures ++ [(e, x.sel)] }) o.ctl o.d
              (BitVec.ofNat 64 x.active)) s

/-! `wsswap` (R193) -/

/-- The effect of a command on the caller's entry, which must be valid; `invalid` is the status when it is not. -/
def wsOn (a : Access) (va : Option Nat) (invalid : Nat) (k : Nat → WsEntry → State → State × Nat × Nat) (s : State) :
    State × Nat × Nat :=
  match va with
  | none => (s, invalid, 0)
  | some va =>
    match s.touchFail a (touches va 64 .rw) with
    | some (st, x) => (s, st, failData x)
    | none =>
      let s := s.touchRead a (touches va 64 .rw)
      let e := wsEntry (s.touchNat a) va
      if e.valid then k va e s else (s, invalid, 0)

/-- Runs a weight-set command that acts on the caller's entry. -/
def DIssue.wsRun (it : DIssue) (g : Workgroup) (o : Op3) (e : Nat) (pend : Pend) (more : List Touch)
    (k : Access → Option Nat → State → State × Nat × Nat) : Out :=
  let a := it.engAccess g 2 0
  let va := it.s.wsVa g.vf g.region.toNat e
  let ts := (match va with | some va => touches va 64 .rw | none => []) ++ more
  it.unpinned g a ts fun _ =>
    it.run g o.ctl { cls := 4, pend := pend, gwrites := it.s.touchRanges a (more.filter (fun t => t.need == .write)), run := k a va }

/-- `wsswap`. -/
def execWsswap (o : Op3) (s : State) : Out :=
  wsWord (.wsswap o) o (fun it g e =>
    let want := (it.val o.b).toNat
    it.wsRun g o e .none [] fun a va => wsOn a va 6 fun va x s =>
      if x.version != want then (s, 11, 0)
      else
        let v := (x.version + 1) % 2 ^ 32
        let w := s.touchNat a (va + 24) 4
        let s := s.touchPut a (va + 24) 8 (v * 2 ^ 32 + (if x.sel then w - 2 else w + 2))
        (s, 0, v * 2 ^ 16)) s

/-! Peers (R194, R195, R327) -/

/-- Entry e of the table of a function's top-level region on a peer: its physical address there, and the entry. -/
def State.farWs (s : State) (p : Peer) (f e : Nat) : Option (Nat × WsEntry) :=
  (p.wst.find? fun t => t.1 == f).map fun t => (t.2 + 64 * e, wsEntry s.mem.nat (p.key (t.2 + 64 * e)))

/-- What a peer that receives a set does, at its home slices: none where its entry counts as busy (R194, R327). -/
def State.farReceive (s : State) (p : Peer) (f e version : Nat) (data : List Byte) : Option State :=
  match s.farWs p f e with
  | none => none
  | some (a, x) =>
    if !x.valid || x.size != data.length || x.idleBusy then none
    else some ((s.writeL2 (p.key x.idle) data).writeL2Nat (p.key a + 40) 4 version)

/-- One step of a broadcast: the outcome of list element k, 0 for received, given the outcomes of the elements before it; 255 for
an element that nothing was sent to. -/
def bcastStep (f e version : Nat) (data : List Byte) (acc : State × List Nat) (node : Nat) : State × List Nat :=
  let k := acc.2.length
  let sent := k < 2 || acc.2.getD ((k - 2) / 2) 255 == 0
  if !sent then (acc.1, acc.2 ++ [255])
  else
    match acc.1.peer? f node with
    | none => (acc.1, acc.2 ++ [7])
    | some p =>
      match acc.1.farReceive p f e version data with
      | none => (acc.1, acc.2 ++ [11])
      | some s => (s, acc.2 ++ [0])

/-- The lowest failing index of a broadcast, and its status. -/
def bcastFail (rs : List Nat) : Option (Nat × Nat) :=
  ((List.range rs.length).find? fun k => rs.getD k 0 == 7 || rs.getD k 0 == 11).map fun k => (k, rs.getD k 0)

/-- The node list of a broadcast. -/
def State.nodeList (s : State) (a : Access) (va n : Nat) : List Nat := (List.range n).map fun i => s.touchNat a (va + 2 * i) 2

/-- The peers' outcomes for a broadcast of entry e as it stands. -/
def State.bcast (s : State) (a : Access) (f va e list n : Nat) : State × List Nat :=
  let x := wsEntry (s.touchNat a) va
  let data := s.touchData a (touches x.active x.size .read)
  (s.nodeList a list n).foldl (bcastStep f e x.version data) (s, [])

/-- The effect of `wsbcast`. -/
def wsbcastRun (f e list n : Nat) (a : Access) (va : Option Nat) (s : State) : State × Nat × Nat :=
  wsOn a va 6 (fun va x s =>
    match s.touchFail a (touches list (2 * n) .read ++ touches x.active x.size .read) with
    | some (st, v) => (s, st, failData v)
    | none =>
      if (s.nodeList a list n).any (fun d => 4096 ≤ d) then (s, 1, 0)
      else
        let r := (s.sendOver f).bcast a f va e list n
        match bcastFail r.2 with
        | none => (r.1, 0, 0)
        | some (k, st) => (r.1, (if st == 7 && (s.portFor f).isSome then 0 else st), k * 2 ^ 16)) s

/-- `wsbcast`: a peer that does not answer ends the command by the Towpath time-out, or at once where the function has no way there. -/
def execWsbcast (o : Op3) (s : State) : Out :=
  wsWord (.wsbcast o) o (fun it g e =>
    let list := (it.param o.b 0).toNat
    let nw := (it.param o.b 1).toNat
    let a := it.engAccess g 2 0
    if list % 2 != 0 || nw / 4096 != 0 || nw == 0 then it.only g o.ctl 4 1 0
    else
      let va := it.s.wsVa g.vf g.region.toNat e
      let slot := match va with
        | some va => let x := wsEntry (it.s.touchNat a) va; if x.valid then touches x.active x.size .read else []
        | none => []
      let r := wsbcastRun g.vf e list nw a va it.s
      let waits := r.2.1 == 0 && (it.s.portFor g.vf).isSome && (match va with
        | some va => (match bcastFail (it.s.bcast a g.vf va e list nw).2 with | some (_, st) => st == 7 | none => false)
        | none => false)
      it.wsRun g o e (if waits then .peer it.s.clock else .none) (touches list (2 * nw) .read ++ slot)
        (wsbcastRun g.vf e list nw)) s

/-- A peer has swapped the entry at an address (R193). -/
def State.farFlip (s : State) (p : Peer) (at_ : Nat) : State :=
  let w := s.mem.nat (p.key at_ + 24) 4
  let v := (s.mem.nat (p.key at_ + 28) 4 + 1) % 2 ^ 32
  s.writeL2Nat (p.key at_ + 24) 8 (v * 2 ^ 32 + (if w / 2 % 2 == 1 then w - 2 else w + 2))

/-- The effect of `wspull` from a peer that answers. Poisoned lines come poisoned, with status 3 (R181, R361; log 38). Whether the peer
flips its selector during the copy is open: then the status is 4, and the idle slot is unspecified (R195). -/
def wspullRun (f e : Nat) (p : Peer) (a : Access) (va : Option Nat) (s : State) : State × Nat × Nat :=
  wsOn a va 11 (fun va x s =>
    if x.idleBusy then (s, 11, 0)
    else
      match s.farWs p f e with
      | none => (s, 6, 0)
      | some (at_, y) =>
        if s.farBad p at_ 64 then (s, 3, failData at_)
        else if !y.valid then (s, 6, 0)
        else if y.size != x.size then (s, 11, 0)
        else
          let ts := touches x.idle x.size .write
          match s.touchFail a ts with
          | some (st, v) => (s.touchFree a ts 4, st, failData v)
          | none =>
            let bad := (List.range (y.size / 64)).filter fun i => s.farBad p (y.active + 64 * i) 64
            if !bad.isEmpty then
              (bad.foldl (fun s i => s.poisonAt a (x.idle + 64 * i)) (s.touchFree a ts 4), 3, failData (y.active + 64 * bad.headD 0))
            else if Config.freeNat s.free 62 % 2 == 1 then ((s.touchFree a ts 4).farFlip p at_, 4, 0)
            else
              let s := s.touchWrite a ts (s.mem.bytes (p.key y.active) y.size) 4
              (s.touchPut a (va + 40) 4 y.version, 0, 0)) s

/-- The local entry can take a pulled set, but the peer does not answer; where the function has no way there, the status is 7. -/
def wsFree (f : Nat) (a : Access) (va : Option Nat) (s : State) : State × Nat × Nat :=
  wsOn a va 11 (fun _ x s => (s.sendOver f, if x.idleBusy then 11 else if (s.portFor f).isSome then 0 else 7, 0)) s

/-- `wspull`. -/
def execWspull (o : Op3) (s : State) : Out :=
  wsWord (.wspull o) o (fun it g e =>
    let node := (it.val o.b).toNat
    let a := it.engAccess g 2 0
    if 4096 ≤ node then it.only g o.ctl 4 1 0
    else
      match it.s.peer? g.vf node with
      | none =>
        let st := (wsFree g.vf a (it.s.wsVa g.vf g.region.toNat e) it.s).2.1
        it.wsRun g o e (if st == 0 then .peer it.s.clock else .none) [] (wsFree g.vf)
      | some p =>
        let idle := match it.s.wsVa g.vf g.region.toNat e with
          | some va => let x := wsEntry (it.s.touchNat a) va; if x.valid then touches x.idle x.size .write else []
          | none => []
        -- one that has waited, and whose idle slot a `wsswap` has made active meanwhile, finds it busy (R328)
        let p' := it.place g
        if it.s.replay.isSome && (g.hazOf p'.1 p'.2).gwrites != it.s.touchRanges a idle then it.only g o.ctl 4 11 0
        else it.wsRun g o e .none idle fun a va s => wspullRun g.vf e p a va (s.sendOver g.vf)) s

/-- The lines of a function's range of bytes that other cores hold are written back, for an access that never waits (R229). -/
def State.settleRange (s : State) (f va n : Nat) : State :=
  (pieces va n).foldl (fun s p => match s.devXlate f (p.1 % 2 ^ 64) .read with
    | .ok pa => s.forceWriteBack (lineOf pa)
    | .error _ => s) s

/-- Writes bytes at a function's address as the device does, at L2, with dirty tracking (R236, R340). A line written whole loses its
poison (R251). -/
def State.putFunction (s : State) (f va : Nat) (bs : List Byte) : State :=
  let cells := bs.zipIdx.filterMap fun b =>
    match s.devXlate f ((va + b.2) % 2 ^ 64) .write with | .ok pa => some (pa, b.1) | .error _ => none
  let r := s.storeFrames cells
  let s := (r.2.foldl (fun s c => s.writeL2 c.1 [c.2]) r.1).trackRange f va bs.length
  (wholeLines cells).foldl (fun s ln => s.setPoison ln false) s

/-- The same as an access that never waits: lines that cores hold are written back first (R229). -/
def State.intoFunction (s : State) (f va : Nat) (bs : List Byte) : State := (s.settleRange f va bs.length).putFunction f va bs

/-- The lines of a range of a function become poisoned. -/
def State.poisonFunction (s : State) (f va n : Nat) : State :=
  (pieces va n).foldl (fun s p => match s.devXlate f (p.1 % 2 ^ 64) .write with
    | .ok pa => s.setPoison (lineOf pa) true
    | .error _ => s) s

/-- WSBCAST_RECEIVE (R194, R327): this module receives a set into the idle slot of an entry of a function's top-level region; poisoned
data poisons the lines written (R361). -/
def execWsbcastReceive (vf entry version : Nat) (data : Received) (s : State) : Out :=
  let t := s.topNat vf 48 8
  if (s.vf vf).topRcb == 0 || t == 0 then .next s
  else
    let a := t + 64 * entry
    let s := s.settleRange vf a 64
    let x := wsEntry (s.dev vf) a
    if !x.valid || x.size != data.bytes.length || x.idleBusy then .next s
    else
      let s := s.intoFunction vf x.idle data.bytes
      .next ((if data.poisoned then s.poisonFunction vf x.idle data.bytes.length else s).devWrite vf (a + 40) 4 version)

end Sys2Proof.Machine
end

