-- ==== Sys2Proof/Machine/Objects.lean ====
section
/-!
DEFINITION. Named objects (R196, R197, R240, R305 to R310, R313).
-/
namespace Sys2Proof.Machine

/-! Directory entries (R306) -/

/-- A region's directory as a command works on it: spill area, entries, slot bytes, data offset. -/
structure Dir where
  base : Nat
  ent  : Nat
  slot : Nat
  off  : Nat
  deriving DecidableEq, Repr, Inhabited

def State.dir? (s : State) (f region : Nat) : Option Dir :=
  (s.spill? f region).map fun q => { base := q.1, ent := q.2.1, slot := q.2.2.1, off := q.2.2.2 }

/-- The shadow slot and the spill slot of an entry (R305). -/
def Dir.shadow (d : Dir) (i : Nat) : Nat := d.base + d.off + 2 * i * d.slot
def Dir.spill (d : Dir) (i : Nat) : Nat := d.base + d.off + (2 * i + 1) * d.slot

def Dir.va (d : Dir) (i : Nat) : Nat := d.base + 64 + 128 * i

/-- An entry's fields. -/
structure ObjEnt where
  name  : Nat
  size  : Nat
  dur   : Bool
  shr   : Bool
  state : Nat
  berth : Nat
  area  : Nat
  kind  : Nat
  owner : Nat
  key   : Nat
  binds : List Nat
  deriving DecidableEq, Repr, Inhabited

def State.objEnt (s : State) (f : Nat) (d : Dir) (i : Nat) : ObjEnt :=
  let rd (o n : Nat) : Nat := s.dirNat f d.base i o n
  let w := rd 16 8
  { name := rd 0 8, size := rd 8 4, dur := rd 12 4 % 2 == 1, shr := rd 12 4 / 2 % 2 == 1, state := w % 8,
    berth := bitsOf w 23 16, area := bitsOf w 41 32, kind := rd 24 8 % 2, owner := rd 28 4, key := rd 32 8,
    binds := (List.range 8).map fun b => rd (64 + 8 * b) 8 }

/-- A binding word is in use. -/
def bindValid (w : Nat) : Bool := w / 128 % 2 == 1

/-- The binding word of a workgroup's slot (R306). -/
def bindWord (lid wgnum slot : Nat) (rdo : Bool) : Nat := lid * 2 ^ 32 + wgnum * 256 + 128 + bit rdo 6 + slot

/-- The binding belongs to the workgroup. -/
def bindOf (lid wgnum w : Nat) : Bool := bindValid w && bitsOf w 63 32 == lid && bitsOf w 31 8 == wgnum

/-- The entry in use with a name. -/
def State.findObj (s : State) (f : Nat) (d : Dir) (name : Nat) : Option Nat :=
  (List.range d.ent).find? fun i => s.dirNat f d.base i 16 1 % 8 != 0 && s.dirNat f d.base i 0 8 == name

/-- The caller is of the owner (R197). -/
def ObjEnt.owns (e : ObjEnt) (lid : Nat) : Bool := e.kind == 1 || e.owner == lid

/-- Writes STATE, BERTH and AREA. -/
def State.setBerth (s : State) (f : Nat) (d : Dir) (i st berth base : Nat) : State :=
  s.dirWrite f d.base i 16 8 (base / 1024 * 2 ^ 32 + berth * 2 ^ 16 + st)

/-- Clears an entry. -/
def State.clearEnt (s : State) (f : Nat) (d : Dir) (i : Nat) : State :=
  (List.range 16).foldl (fun s k => s.dirWrite f d.base i (8 * k) 8 0) s

/-! Object areas (R240) -/

/-- The end of the highest placed window of a core. -/
def Core.windowTop (co : Core) : Nat :=
  (co.slots.filterMap fun g => g.map fun g => g.winBase + winBytes g.hdr.scratch).foldl max 0

/-- The bases at which an object of a size fits in a core's object area. -/
def Core.objectBases (co : Core) (n : Nat) : List Nat :=
  ((List.range 512).map (· * 1024)).filter fun b =>
    co.windowTop ≤ b && b + n ≤ Config.scratchBytes && co.areas.all fun t => b + n ≤ t.base || t.base + t.size ≤ b

/-- The state with every place filled that launches other than `own` have reserved (R301). -/
def State.withReserved (s : State) (own : Option Launch) : State :=
  s.launches.foldl (fun s m =>
    if m.endedAs != none || own.any (fun l => l.vf == m.vf && l.lid == m.lid) then s
    else m.reserved.foldl (fun s q =>
      match (s.core q.1).freeSlot with
      | some k => s.setSlot q.1 k (some (s.freshWg q.1 m (hdrFields (m.hdrRd s)) 0 0 q.2))
      | none => s) s) s

/-- The base of an object of a size: from the top (R238), clear of reserved places (R301). -/
def State.pickBase (s : State) (c n : Nat) : Option Nat := (((s.withReserved none).core c).objectBases n).getLast?

/-- Takes an area with its contents. -/
def State.takeArea (s : State) (c : Nat) (o : ObjArea) (data : List Byte) : State :=
  (s.modCore c fun co => { co.vacate o.base o.size with areas := o :: co.areas, scratch := co.scratch.clear o.base o.size }).scrWrite
    c (bytesAt o.base data)

/-- The area of an entry on a core. -/
def State.areaOf (s : State) (f : Nat) (c entry region : Nat) : Option ObjArea :=
  (s.core c).areas.find? fun o => o.vf == f && o.entry == entry && s.eff f o.region.toNat 13 == s.eff f region 13

/-- Frees the area of an entry. -/
def State.dropArea (s : State) (c : Nat) (o : ObjArea) : State :=
  s.modCore c fun co => { co with areas := co.areas.filter (fun x => x != o) }

/-! Commands -/

/-- Sets a handle slot of the workgroup. -/
def State.setHandle (s : State) (c k n : Nat) (h : HSlot) : State :=
  s.modWg c k fun g => { g with slots := g.slots.set n h }

def slotNo : Opnd → Nat
  | .slot n => n.toNat
  | _ => 0

/-- What an object command meets first: no OBJECTS is ILL (R288). -/
def objWord (i : Instr) (o : Op3) (body : DIssue → Workgroup → Out) (s : State) : Out :=
  cmdWord i o.ctl (fun it g => if !g.hdr.objects then it.trap { cls := .ill } else body it g) s

/-- A command that names a slot to be bound: it must be empty (R196). -/
def objBinder (i : Instr) (o : Op3) (body : DIssue → Workgroup → Nat → Out) (s : State) : Out :=
  objWord i o (fun it g =>
    let n := slotNo o.d
    match g.slots.getD n .empty with
    | .empty => body it g n
    | _ => it.trap { cls := .ill }) s

/-- The region's spill area, or how reading its header fails: `absent` is the status for a region that owns no objects (R305). -/
def State.spillFor (s : State) (a : Access) (f region absent : Nat) : Except (Nat × Nat) Dir :=
  let base := s.eff f region 13
  if base == 0 then .error (absent, 0)
  else
    match s.touchFail a (touches base 64 .read) with
    | some (st, va) => .error (st, failData va)
    | none =>
      match s.dir? f region with
      | none => .error (absent, 0)
      | some d => .ok d

/-- How reading the directory fails (R181). -/
def State.dirFail (s : State) (a : Access) (d : Dir) : Option (Nat × Nat) :=
  (s.touchFail a (touches (d.base + 64) (128 * d.ent) .read)).map fun q => (q.1, failData q.2)

/-- How a change of entry i fails. -/
def State.entFail (s : State) (a : Access) (d : Dir) (i : Nat) : Option (Nat × Nat) :=
  (s.touchFail a (touches (d.va i) 128 .rw)).map fun q => (q.1, failData q.2)

/-- What an object command reads: the region, header and directory of its spill area, and some more. -/
def State.objTouches (s : State) (f region : Nat) (more : Dir → List Touch) : List Touch :=
  let base := s.eff f region 13
  if base == 0 then []
  else touches base 64 .read ++ (match s.dir? f region with
    | some d => touches (d.base + 64) (128 * d.ent) .read ++ more d
    | none => [])

/-- A bound slot's new value, pending in the batch of the command that runs. -/
def bindPending (b entry base size : Nat) (rdo : Bool) : HSlot := .pending b (some (entry, base, size, rdo))

/-- The free entries of a directory. -/
def State.freeEnts (s : State) (f : Nat) (d : Dir) : List Nat :=
  (List.range d.ent).filter fun i => s.dirNat f d.base i 16 1 % 8 == 0

/-- The free entry that `objnew` takes, given a choice that the rules leave open. -/
def State.newEnt (s : State) (f : Nat) (d : Dir) (choice : Nat) : Nat :=
  let free := s.freeEnts f d
  free.getD (choice % free.length) 0

/-- The effect of `objnew` (R197). -/
def objnewRun (a : Access) (g : Workgroup) (n name size : Nat) (dur shr : Bool) (choice : Nat) (s : State) : State × Nat × Nat :=
  let s := s.setHandle a.core a.slot n (.pending s.batchNow none)
  let f := g.vf
  match s.spillFor a f g.region.toNat 11 with
  | .error e => (s, e)
  | .ok d =>
    if size == 0 || size % 64 != 0 then (s, 1, 0)
    else
      match s.dirFail a d with
      | some e => (s, e)
      | none =>
        if (s.findObj f d name).isSome then (s, 11, 0)
        else if (s.freeEnts f d).isEmpty || d.slot < size then (s, 5, 0)
        else
          match s.pickBase a.core size with
          | none => (s, 5, 0)
          | some base =>
            let i := s.newEnt f d choice
            let ts := if dur then touches (d.shadow i) d.slot .write else []
            match (s.entFail a d i).or ((s.touchFail a ts).map fun q => (q.1, failData q.2)) with
            | some e => (s, e)
            | none =>
              let s := s.takeArea a.core { vf := f, region := g.region, entry := i, base, size, failed := false } []
              let s := s.clearEnt f d i
              let s := s.dirWrite f d.base i 0 8 name
              let s := s.dirWrite f d.base i 8 8 (size + bit dur 32 + bit shr 33)
              let s := s.setBerth f d i 1 a.core base
              let s := s.dirWrite f d.base i 24 8 (g.lid * 2 ^ 32)
              let s := s.dirWrite f d.base i 64 8 (bindWord g.lid g.wgnum n false)
              let s := if dur then s.touchWrite a ts (List.replicate d.slot 0) else s
              (s.setHandle a.core a.slot n (bindPending s.batchNow i base size false), 0, 0)

/-- `objnew`. -/
def execObjnew (o : Op3) (s : State) : Out :=
  objBinder (.objnew o) o (fun it g n =>
    let a := it.engAccess g 2 0
    let dur := o.var.getLsbD 0
    let choice := Config.freeNat it.ctr 2
    let shadow (d : Dir) : List Touch := if dur then touches (d.shadow (it.s.newEnt g.vf d choice)) d.slot .write else []
    it.unpinned g a (it.s.objTouches g.vf g.region.toNat shadow) fun _ =>
      it.run g o.ctl
        { cls := 5, run := objnewRun a g n (it.val o.a).toNat (it.val o.b).toNat dur (o.var.getLsbD 1) choice }) s

/-- Binds a slot to an object berthed on the command's core. -/
def State.bindHere (s : State) (a : Access) (g : Workgroup) (d : Dir) (i n base size : Nat) (rdo : Bool) : State :=
  let e := s.objEnt g.vf d i
  let b := ((List.range 8).find? fun b => !bindValid (e.binds.getD b 0)).getD 0
  (s.dirWrite g.vf d.base i (64 + 8 * b) 8 (bindWord g.lid g.wgnum n rdo)).setHandle a.core a.slot n
    (bindPending s.batchNow i base size rdo)

/-- Brings an object into the core's area from bytes, and binds it; status 5 where there is no room (R197, R307). -/
def State.bringIn (s : State) (a : Access) (g : Workgroup) (d : Dir) (i n size : Nat) (rdo : Bool) (data : List Byte)
    (before : State → State) (st dat : Nat) : State × Nat × Nat :=
  match s.pickBase a.core size, s.entFail a d i with
  | none, _ => (s, 5, 0)
  | _, some e => (s, e)
  | some base, none =>
    let s := (before s).takeArea a.core { vf := g.vf, region := g.region, entry := i, base, size, failed := false } data
    let s := s.setBerth g.vf d i 1 a.core base
    (s.bindHere a g d i n base size rdo, st, dat)

/-- A `.mv` move out of the berth wakes the berth's string (R312). -/
def State.wakeFor (s : State) (c : Nat) : State :=
  s.modString (stringOf c) fun t =>
    match t.gate with
    | .gated => { t with gate := .waking (s.clock + 3 * usCycles) }
    | .gating _ => { t with gate := .gating true }
    | _ => t

/-- The address of a word of an object's area that has an uncorrectable error. -/
def Core.badArea (co : Core) (o : ObjArea) : Option Nat :=
  (co.badWords.find? fun w => o.base ≤ 8 * w && 8 * w < o.base + o.size).map (8 * ·)

/-- `objopen` of a BERTHED object (R197). -/
def openBerthed (a : Access) (g : Workgroup) (d : Dir) (i n : Nat) (e : ObjEnt) (mv rdo : Bool) (s : State) : State × Nat × Nat :=
  if e.berth == a.core then
    if e.binds.all bindValid then (s, 5, 0)
    else
      match s.entFail a d i with
      | some x => (s, x)
      | none => (s.bindHere a g d i n (1024 * e.area) e.size rdo, 0, 0)
  else if !mv then (s, 10, e.berth * 2 ^ 16)
  else if e.binds.any bindValid then (s, 11, 0)
  else
    match s.areaOf g.vf e.berth i g.region.toNat with
    | none => (s, 5, 0)
    | some old =>
      match (s.core e.berth).badArea old with
      | some x => ((s.sramError e.berth x).loseObject e.berth old, 3, 0)
      | none =>
        let data := (s.core e.berth).scratch.bytes old.base old.size
        s.bringIn a g d i n e.size rdo data (fun s => (s.dropArea e.berth old).wakeFor e.berth) 8 (e.berth * 2 ^ 16)

/-- `objopen` of an object whose contents lie in a slot of the spill area. -/
def openStored (a : Access) (g : Workgroup) (d : Dir) (i n : Nat) (e : ObjEnt) (rdo : Bool) (from' st dat : Nat) (s : State) :
    State × Nat × Nat :=
  if e.binds.all bindValid then (s, 5, 0)
  else
    let ts := touches from' e.size .read
    match s.touchFail a ts with
    | some (st, va) => (s, st, failData va)
    | none => s.bringIn a g d i n e.size rdo (s.touchData a ts) id st dat

/-- The effect of `objopen` (R197, R307). -/
def objopenRun (a : Access) (g : Workgroup) (n name : Nat) (mv : Bool) (s : State) : State × Nat × Nat :=
  let s := s.setHandle a.core a.slot n (.pending s.batchNow none)
  let f := g.vf
  match s.spillFor a f g.region.toNat 6 with
  | .error e => (s, e)
  | .ok d =>
    match s.dirFail a d with
    | some e => (s, e)
    | none =>
      match s.findObj f d name with
      | none => (s, 6, 0)
      | some i =>
        let e := s.objEnt f d i
        let owner := e.owns g.lid
        if e.state == 4 then
          match s.entFail a d i with
          | some x => (s, x)
          | none => (s.clearEnt f d i, 7, 0)
        else if !owner && !e.shr then (s, 11, 0)
        else if e.state == 1 then openBerthed a g d i n e mv (!owner) s
        else if e.state == 2 then openStored a g d i n e (!owner) (d.spill i) 8 (2 ^ 24) s
        else openStored a g d i n e (!owner) (d.shadow i) 9 0 s

/-- The object of a name in the region, with its entry. -/
def State.named (s : State) (f region name : Nat) : Option (Dir × Nat × ObjEnt) :=
  (s.dir? f region).bind fun d => (s.findObj f d name).map fun i => (d, i, s.objEnt f d i)

/-- `objopen`. -/
def execObjopen (o : Op3) (s : State) : Out :=
  objBinder (.objopen o) o (fun it g n =>
    let a := it.engAccess g 2 0
    let r := g.region.toNat
    let name := (it.val o.a).toNat
    let mv := o.var.getLsbD 0
    let move := (it.s.named g.vf r name).bind fun q =>
      if mv && q.2.2.state == 1 && q.2.2.berth != it.core then some (g.vf, r, q.2.1, q.2.2.berth) else none
    let stored (d : Dir) : List Touch := match it.s.named g.vf r name with
      | some q =>
        if q.2.2.state == 2 then touches (d.spill q.2.1) q.2.2.size .read
        else if q.2.2.state == 3 then touches (d.shadow q.2.1) q.2.2.size .read else []
      | none => []
    it.unpinned g a (it.s.objTouches g.vf r stored) fun _ =>
      it.run g o.ctl { cls := 5, move := move, run := objopenRun a g n name mv }) s

/-- Some speculative leg still buffers a store to a range of scratchpad (R232, R309). -/
def Workgroup.buffers (g : Workgroup) (base size : Nat) : Bool :=
  match g.relay with
  | some r => r.legs.any fun l => l.buf.any fun b => b.scratch && b.bytes.any fun x => base ≤ x.1 && x.1 < base + size
  | none => false

/-- A command on a bound slot; an empty or pending one gives status 4 (R25, R181). One that ends the binding waits for the stores that
legs still buffer to the object, and for earlier commands on it that wait (R309). -/
def objOnSlot (i : Instr) (o : Op3) (reads : Bool) (more : Dir → Nat → Nat → List Touch)
    (k : DIssue → Access → Workgroup → Nat → Nat → Dir → State → State × Nat × Nat) (s : State) : Out :=
  objWord i o (fun it g =>
    let n := slotNo o.a
    let a := it.engAccess g 2 0
    match g.slots.getD n .empty with
    | .bound i base size _ =>
      let eff (s : State) : State × Nat × Nat :=
        match s.spillFor a g.vf g.region.toNat 11 with
        | .error e => (s, e)
        | .ok d =>
          match (s.dirFail a d).or (if reads then none else s.entFail a d i) with
          | some e => (s, e)
          | none => k it a g n i d s
      let go (_ : Unit) : Out := it.run g o.ctl { cls := 5, reads := if reads then [(base, size, base)] else [], run := eff }
      let p := it.place g
      if !reads && (g.buffers base size || g.heldOn p.1 p.2 base size) then it.hold g none (go ())
      else it.unpinned g a (it.s.objTouches g.vf g.region.toNat fun d => more d i size) go
    | _ => it.only g o.ctl 5 4 0) s

/-- The slot is emptied and its binding cleared (R307). -/
def State.unbind (s : State) (a : Access) (g : Workgroup) (d : Dir) (i n : Nat) : State :=
  let e := s.objEnt g.vf d i
  let s := (List.range 8).foldl (fun s b =>
    let w := e.binds.getD b 0
    if bindOf g.lid g.wgnum w && w % 8 == n then s.dirWrite g.vf d.base i (64 + 8 * b) 8 0 else s) s
  s.setHandle a.core a.slot n .empty

/-- A LAUNCHID that some launch of the function has received (R197, R297). -/
def State.received (s : State) (f lid : Nat) : Bool := lid != 0 && (2 ^ 32 - 1 ≤ (s.vf f).lids || lid ≤ (s.vf f).lids)

/-- `objhand` (R197, R310, R315). A launch that has been claimed and stands for admission has not ended. -/
def execObjhand (o : Op3) (s : State) : Out :=
  objOnSlot (.objhand o) o false (fun _ _ _ => []) (fun it a g n i d s =>
    let f := g.vf
    let e := s.objEnt f d i
    let key := (it.param o.b 0).toNat
    let lch := o.var.getLsbD 0
    let lid := (it.param o.b 1).toNat % 2 ^ 32
    if !e.owns g.lid then (s, 11, 0)
    else if lch && !s.received f lid then (s, 11, 0)
    else if key != 0 && (List.range d.ent).any (fun j => j != i && s.dirNat f d.base j 16 1 % 8 != 0 && s.dirNat f d.base j 32 8 == key)
    then (s, 11, 0)
    else
      let live := (match s.launch? f lid with | some l => l.endedAs == none | none => false)
        || s.admits.any fun x => x.vf == f && x.lid == lid
      let s := s.dirWrite f d.base i 24 8 (if lch && live then lid * 2 ^ 32 else 1)
      let s := s.dirWrite f d.base i 32 8 key
      (s.unbind a g d i n, 0, 0)) s

/-- `objdrop` (R197, R307). -/
def execObjdrop (o : Op3) (s : State) : Out :=
  objOnSlot (.objdrop o) o false (fun _ _ _ => []) (fun _ a g n i d s =>
    let f := g.vf
    let e := s.objEnt f d i
    let others := e.binds.any fun w => bindValid w && !(bindOf g.lid g.wgnum w && w % 8 == n)
    if !e.owns g.lid || others then (s, 11, 0)
    else
      let s := match s.areaOf f a.core i g.region.toNat with
        | some r => s.dropArea a.core r
        | none => s
      ((s.setHandle a.core a.slot n .empty).clearEnt f d i, 0, 0)) s

/-- `objsync` (R197, R307). -/
def execObjsync (o : Op3) (s : State) : Out :=
  objOnSlot (.objsync o) o true (fun d i size => touches (d.shadow i) size .write) (fun _ a g n i d s =>
    let e := s.objEnt g.vf d i
    if !e.dur then (s, 11, 0)
    else
      match g.slots.getD n .empty with
      | .bound _ base size _ =>
        let ts := touches (d.shadow i) size .write
        match s.touchFail a ts with
        | some (st, va) => (s.touchFree a ts, st, failData va)
        | none => (s.touchWrite a ts (s.scrBytes a.core base size), 0, 0)
      | _ => (s, 4, 0)) s

/-! Regions and strings (R307, R313) -/

/-- The spill address of a region whose own RCB may no longer be valid. -/
def State.spillOf (s : State) (f region : Nat) : Nat :=
  let rd := s.reader f
  let p := (rd region 8).getD 0
  if p == 0 || (rd (region + 22) 2).getD 0 / 2 ^ 13 % 2 == 1 then rcbOwn rd region 13 else s.eff f p 13

/-- The region has its own spill area. -/
def State.ownSpill (s : State) (f region : Nat) : Bool :=
  let rd := s.reader f
  (rd region 8).getD 0 == 0 || (rd (region + 22) 2).getD 0 / 2 ^ 13 % 2 == 1

/-- REGION_TEARDOWN (R307): after VALID has been cleared and the last launch has ended, the region's objects are freed. -/
def execRegionTeardown (vf : Nat) (rcb : W64) (s : State) : Out :=
  let r := rcb.toNat
  if s.dev vf (r + 16) 1 % 2 == 1 || s.launches.any (fun l => l.vf == vf && l.region == rcb && l.endedAs == none) then .next s
  else
    let base := s.spillOf vf r
    let own := s.ownSpill vf r
    let mine (o : ObjArea) : Bool := o.vf == vf && o.region == rcb
    let gone := s.cores.flatMap fun co => (co.areas.filter mine).map (·.entry)
    let s := { s with cores := s.cores.map fun co => { co with areas := co.areas.filter fun o => !mine o } }
    if base == 0 then .next s
    else
      let ent := s.dev vf (base + 8) 4
      let is := if own then List.range ent else gone
      .next (is.foldl (fun s i => (List.range 16).foldl (fun s k => s.dirWrite vf base i (8 * k) 8 0) s) s)

/-- Changes the slots of a core that hold an object's area. -/
def State.modHeld (s : State) (c : Nat) (o : ObjArea) (f : HSlot → HSlot) : State :=
  ((s.core c).boundSlots o).foldl (fun s k => s.modWg c k fun g =>
    { g with slots := g.slots.map fun h => if h.on o then f h else h }) s

/-- A slot that stays bound to an object without an area: no byte of it can be reached (R25, R313; log 39). -/
def HSlot.away (h : HSlot) : HSlot :=
  match h with
  | .bound e b _ r => .bound e b 0 r
  | .pending n (some x) => .pending n (some (x.1, x.2.1, 0, x.2.2.2))
  | h => h

/-- An object of a leaving string is spilled; its bindings, and the slots of resident workgroups that hold it, stay. Where it is too
great, or the spill area is invalid, it becomes SHADOW or LOST, its bindings as they were; with an effective SPILL of 0 there is no
entry to change (R313). An uncorrectable word met on the way is as R252 says. -/
def State.spillObject (s : State) (f region c : Nat) (o : ObjArea) : State :=
  let lost (s : State) (a : Nat) : State :=
    let s := (s.modHeld c o HSlot.away).dropArea c o
    if a == 0 then s
    else s.dirWrite f a o.entry 16 1 (if s.dirNat f a o.entry 12 1 % 2 == 1 then 3 else 4)
  match (s.core c).badArea o with
  | some x => s.scratchError c Config.nSlots 16 x (x - o.base)
  | none =>
    match s.dir? f region with
    | none => lost s (s.eff f region 13)
    | some d =>
      let data := (s.core c).scratch.bytes o.base o.size
      let fits := o.size ≤ d.slot && (pieces (d.spill o.entry) o.size).all fun p =>
        match s.devXlate f (p.1 % 2 ^ 64) .write with | .ok _ => true | .error _ => false
      if fits then (((s.modHeld c o HSlot.away).dropArea c o).putFunction f (d.spill o.entry) data).setBerth f d o.entry 2 0 0
      else lost s d.base

/-- STRING_LEAVES_REGION (R313). -/
def execStringLeavesRegion (string vf : Nat) (rcb : W64) (s : State) : Out :=
  if s.eff vf rcb.toNat 0 / 2 ^ string % 2 == 1 then .next s
  else
    .next ((List.range 4).foldl (fun s j =>
      let c := 4 * string + j
      ((s.core c).areas.filter fun o => o.vf == vf && o.region == rcb).foldl (fun s o => s.spillObject vf rcb.toNat c o) s) s)

end Sys2Proof.Machine
end

