-- ==== Sys2Proof/Machine/Admission.lean ====
section
/-!
DEFINITION. From a queue entry to a running workgroup (R285 to R287, R291, R292, R296 to R302, R308, R311, R377): admission, starts,
restores, and the affinity queues.
-/
namespace Sys2Proof.Machine

/-! Places for workgroups -/

/-- The core has a free slot and room for one workgroup (R298). -/
def Core.hasRoom (co : Core) (h : KHeader) : Bool := co.fits h && co.freeSlot.isSome

/-- Core c has room for one workgroup of the launch: beside what other launches have reserved, and, where the launch has places of its
own left, in one of those (R298, R301). -/
def State.hasRoom (s : State) (c : Nat) (l : Launch) (h : KHeader) : Bool :=
  ((s.withReserved (some l)).core c).hasRoom h && (l.reserved.isEmpty || l.reserved.any (·.1 == c))

/-- The resident budgets allow one more workgroup of the launch beside what other launches have reserved (R301, R377). -/
def State.hasBudget (s : State) (l : Launch) (h : KHeader) : Bool := (s.withReserved (some l)).budgetOk l.vf l.region.toNat h

/-- Places for n workgroups of a launch in `t`, lowest core first, each with its window; none where they do not all fit (R301). -/
def placeAll (l : Launch) (h : KHeader) (cores : List Nat) : Nat → State → Option (List (Nat × Nat))
  | 0, _ => some []
  | n + 1, t =>
    match cores.find? fun c => (t.core c).hasRoom h && t.budgetOk l.vf l.region.toNat h with
    | none => none
    | some c =>
      match (t.core c).freeSlot, (t.core c).placeWindow (winBytes h.scratch) with
      | some k, some b => (placeAll l h cores n (t.setSlot c k (some (t.freshWg c l h 0 0 b)))).map ((c, b) :: ·)
      | _, _ => none

/-- The state with nothing resident and nothing reserved. -/
def State.emptied (s : State) : State :=
  { s with cores := s.cores.map fun co => { co with slots := List.replicate Config.nSlots none }
           launches := s.launches.map fun l => { l with reserved := [] } }

/-! Queue entries (R296) -/

def State.queueEntry (s : State) (f a : Nat) : QEntry :=
  { image := s.dev f a 8, region := s.dev f (a + 8) 8, signal := s.dev f (a + 16) 8, dep := s.dev f (a + 24) 8,
    dk := s.dev f (a + 32) 8, rsv := s.dev f (a + 40) 24 != 0 }

/-- The image header can be read. -/
def State.readable (s : State) (f a n : Nat) : Bool :=
  (pieces a n).all fun p => match s.devXlate f (p.1 % 2 ^ 64) .read with | .ok _ => true | .error _ => false

/-- The region's chain is valid and ends at the function's top level, whose VF names the function (R293, R294, R296). -/
def State.regionOk (s : State) (f region : Nat) : Bool :=
  match s.chain f region with
  | none => false
  | some ch =>
    match ch.getLast? with
    | none => false
    | some top => (match s.devXlate f top .read with | .ok pa => pa == (s.vf f).topRcb | .error _ => false)
      && bitsOf (s.dev f (top + 16) 8) 45 40 == f

/-- The launch of an entry, before its admission. -/
def QEntry.launch (e : QEntry) (f lid : Nat) : Launch :=
  { vf := f, lid := lid, image := BitVec.ofNat 64 e.image, region := BitVec.ofNat 64 e.region, parent := none, endedAs := none,
    reserved := [], restarts := [], badSaves := [], begun := false }

/-- The entry and its image are valid (R285 to R287, R293, R296, R297, R299). -/
def State.entryOk (s : State) (f : Nat) (e : QEntry) : Bool :=
  let l := e.launch f 0
  let h := hdrFields (l.hdrRd s)
  let kind := e.dk % 16
  !e.rsv && e.image % 64 == 0 && e.region % 256 == 0 && e.dep % 64 == 0 && e.signal % 8 == 0
    && canonical e.image && canonical e.signal && canonical e.dep
    && bitsOf e.dk 15 4 == 0 && e.dk / 2 ^ 32 == 0 && kind ≤ 4 && (kind != 2 || bitsOf e.dk 31 16 != 0)
    && s.readable f e.image 320 && s.regionOk f e.region
    && l.rd s 0 6 == 0x1_4D49_4C5A && l.rd s 6 2 ≤ 1 && l.n s != 0
    && l.rd s 32 8 % 64 == 0 && l.rd s 40 8 % 64 == 0 && l.rd s 48 8 % 64 == 0 && l.rd s 56 8 % 64 == 0
    && hdrValid (l.hdrRd s) && recBytes h ≤ l.rd s 40 8
    && h.warps ≤ s.eff f e.region 6 && winBytes h.scratch / 1024 ≤ s.eff f e.region 7

/-! Admission (R297, R301, R302) -/

/-- The next LAUNCHID is handed out: it skips 0 (R297). -/
def State.takeLid (s : State) (f : Nat) : Nat × State :=
  let n := (s.vf f).nextLid
  (n, s.modVf f fun v => { v with nextLid := if n + 1 == 2 ^ 32 then 1 else n + 1, lids := v.lids + 1 })

/-- The record of a parent that was saved before its child had a LAUNCHID receives it: the BATCH entry that is to name this child, and
CHILD where the record awaits it (R303; log 26). -/
def State.tellParent (s : State) (f image lid : Nat) : State :=
  let mine (a : Awaited) : Bool := a.vf == f && a.image == image && a.named && a.result == none
  let s' := (s.awaited.filter mine).foldl (fun s a =>
    let s := s.devWrite f (a.rec_ + 876 + 16 * a.batch) 4 lid
    if a.wait then s.devWrite f (a.rec_ + 16) 4 lid else s) s
  { s' with awaited := s'.awaited.filter fun a => !mine a }

/-- The dispatch table of an admitted image (R292). -/
def State.initTable (s : State) (l : Launch) (e : QEntry) : State :=
  let n := l.n s
  let dt := l.dtab s
  let ended (c : Nat) : Bool := l.rd s (l.recOff s c) 1 == 4
  let done := (List.range n).filter ended
  let s' := l.wr s dt 8 (((List.range n).find? fun c => !ended c).getD n)
  let s' := l.wr s' (dt + 8) 8 n
  let s' := l.wr s' (dt + 16) 8 done.length
  let s' := l.wr s' (dt + 24) 8 e.dep
  let s' := l.wr s' (dt + 32) 8 e.dk
  let s' := l.wr s' (dt + 40) 8 e.signal
  let s' := l.wr s' (dt + 48) 8 1
  (List.range ((n + 63) / 64)).foldl (fun s' w =>
    l.wr s' (dt + 64 + 8 * w) 8 (((List.range 64).map fun b => if done.contains (64 * w + b) then 2 ^ b else 0).sum)) s'

/-- Admits one claimed entry (R297): the launch or its rejection, with which what was handed to it passes on (R315). `child` says that it comes from a region's child queue. -/
def State.admitEntry (s : State) (f lid : Nat) (e : QEntry) (child : Bool) (reserved : List (Nat × Nat)) (ok : Bool) : State :=
  if !ok then
    let s := if child then s.childDone f e.image lid 7 else s
    (s.objectsToRegion f lid).signal f e.signal lid 1
  else
    let l0 : Launch := { e.launch f lid with reserved := reserved }
    let l : Launch := { l0 with parent := if child then some (BitVec.ofNat 64 (l0.rd s (l0.dtab s + 56) 8), 0) else none }
    let s := s.initTable l e
    let s := { s with launches := s.launches ++ [l] }
    if s.producerKilled l || (List.range (l.n s)).any fun c => l.rd s (l.recOff s c) 1 == 5 then s.killLaunches true [l]
    else if l.rd s (l.dtab s + 16) 8 == l.n s then (l.wr s (l.dtab s + 48) 8 2).completeLaunch l 0
    else s

/-- Whether an entry may be admitted now, and with which reserved places: none makes it wait (R301). -/
def State.admission (s : State) (f : Nat) (e : QEntry) : Option (Bool × List (Nat × Nat)) :=
  if !s.entryOk f e then some (false, [])
  else
    let l := e.launch f 0
    let h := hdrFields (l.hdrRd s)
    if !h.cores then some (true, [])
    else
      let cs := s.regionCores f e.region
      match placeAll l h cs (l.n s) (s.withReserved (some l)) with
      | some r => some (true, r)
      | none => if (placeAll l h cs (l.n s) s.emptied).isSome then none else some (false, [])

/-! Claimed entries (R297, R301, R340) -/

/-- The entries come from one queue. -/
def Admit.sameQueue (a b : Admit) : Bool := a.vf == b.vf && a.queue == b.queue && a.region == b.region

/-- The first claimed entry that can be admitted now: its place, whether it is valid, and its reserved places. Entries of one queue are
admitted in order (R297, R301), none of a function under PAUSE (R340). -/
def State.admitReady (s : State) : Option (Nat × Bool × List (Nat × Nat)) :=
  (List.range s.admits.length).findSome? fun i =>
    match s.admits[i]? with
    | none => none
    | some a =>
      if (s.vf a.vf).pause || (s.admits.take i).any a.sameQueue then none
      else (s.admission a.vf a.entry).map fun r => (i, r)

/-- Admits the claimed entry at a place. -/
def State.admitOne (s : State) (p : Nat × Bool × List (Nat × Nat)) : State :=
  match s.admits[p.1]? with
  | none => s
  | some a =>
    ({ s with admits := s.admits.eraseIdx p.1 } : State).admitEntry a.vf a.lid a.entry (a.queue == 16) p.2.2 p.2.1

/-- Admits claimed entries as far as that is possible now. -/
def State.admitClaimed (s : State) : Nat → State
  | 0 => s
  | n + 1 =>
    match s.admitReady with
    | none => s
    | some p => State.admitClaimed (s.admitOne p) n

/-- A claimed entry receives its LAUNCHID, which its image and a saved parent learn, and stands for admission; it is admitted at once
where it can be (R297, R303). -/
def State.claimEntry (s : State) (f queue region : Nat) (e : QEntry) : State :=
  let (lid, s) := s.takeLid f
  let s := if s.readable f e.image 64 then s.devWrite f (e.image + 28) 4 lid else s
  let s := if queue == 16 then s.tellParent f e.image lid else s
  let s : State := { s with admits := s.admits ++ [{ vf := f, queue, region, lid, entry := e }] }
  s.admitClaimed s.admits.length

/-! Starting (R200, R298, R311, R377) -/

/-- The ticket stands in an affinity queue that core c may not take it from: in its own, behind an older entry, or in another core's
before STEALB has passed, unless that core is lost (R311). -/
def State.queuedAway (s : State) (c : Nat) (l : Launch) (n : Nat) : Bool :=
  (List.range s.cores.length).any fun q =>
    (s.core q).affq.zipIdx.any fun x =>
      let a := x.1
      a.vf == l.vf && a.image == l.image && a.ticket == n &&
        (if q == c then x.2 != 0 else !(s.core q).lost && s.timeOf a.vf < a.since + s.stealb)

/-- A workgroup that starts or resumes leaves the affinity queues, the resume lists and its reserved place. -/
def State.noteStarted (s : State) (c : Nat) (l : Launch) (n : Nat) : State :=
  let s := s.modLaunch l.vf l.lid fun m => { m with reserved := m.reserved.eraseP (·.1 == c), begun := true }
  { s with cores := s.cores.map fun co =>
    { co with affq := co.affq.filter fun a => !(a.vf == l.vf && a.image == l.image && a.ticket == n)
              resume := co.resume.filter fun r => !(r.vf == l.vf && r.lid == l.lid && r.wgnum == n) } }

/-- The live launch of the producer's image, where its dispatch table is read poisoned (R299, R360). -/
def State.deadProducer (s : State) (l : Launch) (n : Nat) : Option Launch :=
  if l.rd s (l.dtab s + 32) 1 % 16 == 0 then none
  else
    let p := l.producer s
    let dt := p.dtab s
    if p.poisoned s dt || p.poisoned s (dt + 48) || (l.producers s n (p.rd s (dt + 8) 8)).any fun i => p.poisoned s (dt + 64 + i / 8)
    then s.launches.find? fun m => m.vf == l.vf && m.image == p.image && m.endedAs == none
    else none

/-- The place of the window of one more workgroup of the launch on core c: the one that it has reserved there, else one that is clear
of what other launches have reserved (R238, R301). -/
def State.windowFor (s : State) (c : Nat) (l : Launch) (h : KHeader) : Option Nat :=
  match l.reserved.find? (·.1 == c) with
  | some q => some q.2
  | none => ((s.withReserved (some l)).core c).placeWindow (winBytes h.scratch)

/-- Starts workgroup n of a launch on core c: the status, and the state (R200). 11 where dispatch is stopped, where the core may not
take it now (R298, R339, R342), where its producers have not ended (R299), where another core's queue holds its ticket (R311), or
where a budget denies it (log 46). Poison in its own table or record kills it, poison in its producer's table the producer, and it with
it (R299, R360). -/
def State.startWg (s : State) (c : Nat) (l : Launch) (n : Nat) : Nat × State :=
  let h := hdrFields (l.hdrRd s)
  let rec_ := l.recOff s n
  if l.endedAs == none && l.poisoned s (l.dtab s) then (1, s.killLaunches true [l])
  else if l.endedAs == none && l.poisoned s rec_ then (3, s.killLaunches true [l])
  else if l.endedAs != none || l.rd s (l.dtab s + 48) 1 % 4 != 1 || l.n s ≤ n || l.rd s rec_ 1 != 0 || !hdrValid (l.hdrRd s) then (1, s)
  else if (s.deadProducer l n).isSome then (1, s.killLaunches true (s.deadProducer l n).toList)
  else if s.dispstop.getLsbD l.vf || !s.mayPlace c l || !s.claimable l n || s.queuedAway c l n then (11, s)
  else if !s.hasRoom c l h then (5, s)
  else if !s.hasBudget l h then (11, s)
  else
    match (s.core c).freeSlot, s.windowFor c l h with
    | some k, some b =>
      let s := s.placeFresh c k (s.freshWg c l h (l.rd s 56 8) n b)
      (0, (l.wr s rec_ 1 3).noteStarted c l n)
    | _, _ => (5, s)

/-- The launch whose image lies at a physical address. -/
def State.launchAt (s : State) (pa : Nat) : Option Launch :=
  s.launches.find? fun l => l.endedAs == none &&
    (match s.devXlate l.vf l.image.toNat .read with | .ok p => p == pa | .error _ => false)

/-- The launch, and the workgroup, whose record lies at a physical address. -/
def State.recordAt (s : State) (m : RecMap) : Option (Launch × Nat) :=
  let n := s.recRead m 4 4
  match m 0 with
  | none => none
  | some pa =>
    (s.launches.find? fun l => l.endedAs == none &&
      (match s.devXlate l.vf ((l.image.toNat + l.recOff s n) % 2 ^ 64) .read with | .ok p => p == pa | .error _ => false)).map
      fun l => (l, n)

/-- The ticket of a record is skipped: its workgroup has ended, or its launch has been killed (R291). -/
def Launch.skips (l : Launch) (s : State) (n : Nat) : Bool :=
  l.endedAs.isSome || l.rd s (l.recOff s n) 1 == 4 || l.rd s (l.recOff s n) 1 == 5

/-- Queues a claimed ticket on the berth of its key's object, where that is another core with room (R311); one that is skipped is not
queued (R291). -/
def State.queueByKey (s : State) (c : Nat) (l : Launch) (t : Nat) : State :=
  let h := hdrFields (l.hdrRd s)
  let key := (h.affbase.toNat + t) % 2 ^ 64
  if h.affbase == 0 || l.skips s t then s
  else
    match s.dir? l.vf l.region.toNat with
    | none => s
    | some d =>
      match (List.range d.ent).find? fun i => let e := s.objEnt l.vf d i; e.state == 1 && e.key == key && key != 0 with
      | none => s
      | some i =>
        let b := (s.objEnt l.vf d i).berth
        if b == c || (s.core b).lost || Config.affinityEntries ≤ (s.core b).affq.length then s
        else
          let a : AffEntry := { vf := l.vf, image := l.image, ticket := t, since := s.timeOf l.vf }
          (s.modCore b fun co => { co with affq := co.affq ++ [a] }).wakeFor b

/-! Restoring (R200, R291, R308, R333) -/

/-- How a device read of a function's memory fails, as a status (R181). -/
def State.devFail (s : State) (f va n : Nat) : Option Nat :=
  (pieces va n).findSome? fun p =>
    match s.devXlate f (p.1 % 2 ^ 64) .read with
    | .error _ => some 2
    | .ok pa => if s.poison.contains (lineOf pa) then some 3 else none

/-- Why a restore stops: its status, and an object that an uncorrectable error has met on the way, with its core and the word's
address. -/
abbrev RebindStop := Nat × Option (Nat × ObjArea × Nat)

/-- Brings back one object that a slot of a restored workgroup is bound to, as a `.mv` move does (R308): the slot, or what stops the
restore. -/
def State.rebindOne (s : State) (c : Nat) (l : Launch) (d : Dir) (i : Nat) (rdo others : Bool) : Except RebindStop (State × HSlot) :=
  let f := l.vf
  let e := s.objEnt f d i
  let bring (s : State) (data : List Byte) : Except RebindStop (State × HSlot) :=
    match s.pickBase c e.size with
    | none => .error (5, none)
    | some base =>
      let s := s.takeArea c { vf := f, region := l.region, entry := i, base, size := e.size, failed := false } data
      .ok (s.setBerth f d i 1 c base, .bound i base e.size rdo)
  if e.state == 1 then
    if e.berth == c then .ok (s, .bound i (1024 * e.area) e.size rdo)
    else if others then .error (11, none)
    else
      match s.areaOf f e.berth i l.region.toNat with
      | none => .error (5, none)
      | some old =>
        match (s.core e.berth).badArea old with
        | some x => .error (3, some (e.berth, old, x))
        | none => bring ((s.dropArea e.berth old).wakeFor e.berth) ((s.core e.berth).scratch.bytes old.base old.size)
  else if e.state == 2 then
    match s.devFail f (d.spill i) e.size with
    | some st => .error (st, none)
    | none => bring s ((List.range e.size).map fun j => BitVec.ofNat 8 (s.dev f (d.spill i + j) 1))
  else .ok (s, .empty)

/-- Rebinds every slot whose binding names the workgroup (R308). A spill area that cannot be read stops the restore (R181, R305). -/
def State.rebind (s : State) (c : Nat) (l : Launch) (h : KHeader) (wgnum : Nat) : Except RebindStop (State × List HSlot) :=
  let start : List HSlot := List.replicate 8 .empty
  let base := s.eff l.vf l.region.toNat 13
  if !h.objects || base == 0 then .ok (s, start)
  else
    match s.devFail l.vf base 64 with
    | some st => .error (st, none)
    | none =>
      match s.dir? l.vf l.region.toNat with
      | none => .ok (s, start)
      | some d =>
        match s.devFail l.vf (base + 64) (128 * d.ent) with
        | some st => .error (st, none)
        | none =>
          let ws := (List.range d.ent).flatMap fun i =>
            if s.dirNat l.vf d.base i 16 1 % 8 == 0 then [] else
              let e := s.objEnt l.vf d i
              (e.binds.filter (bindOf l.lid wgnum)).map fun w =>
                (i, w, e.binds.any fun x => bindValid x && !bindOf l.lid wgnum x)
          ws.foldl (fun acc q =>
            match acc with
            | .error e => .error e
            | .ok (s, hs) =>
              match s.rebindOne c l d q.1 (q.2.1 / 64 % 2 == 1) q.2.2 with
              | .error e => .error e
              | .ok (s, h) => .ok (s, hs.set (q.2.1 % 8) h)) (.ok (s, start))

/-- The flashback entries that a record uses have zero reserved fields (R333). -/
def State.flashOk (s : State) (m : RecMap) (l : Launch) (h : KHeader) : Bool :=
  let kimg := l.rd s 56 8
  (s.recRead m 0 1 == 2) || (List.range h.warps).all fun w =>
    let k := s.recRead m (recWarp w + 284) 1
    !s.blockFlash m w
      || (k < h.fbn && s.dev l.vf (kimg + h.fbtab + 64 * k + 8) 24 == 0 && s.dev l.vf (kimg + h.fbtab + 64 * k) 8 % 4 == 0)

/-- Poison in a part of a record. -/
def State.recPoison (s : State) (m : RecMap) (off n : Nat) : Bool :=
  (List.range ((n + 63) / 64)).any fun i => match m (off + 64 * i) with | some pa => s.poison.contains (lineOf pa) | none => false

/-- All poison of the record is what its save has put into the window part (R254). -/
def State.savedBad (s : State) (m : RecMap) (l : Launch) (h : KHeader) (n : Nat) : Bool :=
  l.badSaves.contains n && !s.recPoison m 0 (recWindow h)
    && !s.recPoison m (recWindow h + winBytes h.scratch) (recBytes h - (recWindow h + winBytes h.scratch))

/-- A record with poison: nothing resumes. Where the save of the workgroup has met the error, the workgroup follows R252 (R254): an
idempotent kernel may start it again fresh, once, without what its record held; else its launch or its fault domain is killed. Any
other poison kills the launch (R360; log 46). -/
def State.recordLost (s : State) (m : RecMap) (l : Launch) (h : KHeader) (n : Nat) : State :=
  if !s.savedBad m l h n then s.killLaunches true [l]
  else if h.idemp && !l.restarts.contains n then
    let s := (s.killSaved l n).recWrite m 0 1 0
    let s := s.modLaunch l.vf l.lid fun x => { x with restarts := n :: x.restarts, badSaves := x.badSaves.filter (· != n) }
    { s with
      awaited := s.awaited.filter fun a => !(a.vf == l.vf && a.rec_ == l.image.toNat + l.recOff s n)
      cores := s.cores.map fun co => { co with resume := co.resume.filter fun r => !(r.vf == l.vf && r.lid == l.lid && r.wgnum == n) } }
  else (s.faultRec l.vf (some l.region.toNat) (trapHeader 7 16 0 0 l.lid)).killDomain true l

/-- Restores the record of workgroup n into slot k of core c: the status, and the state (log 46). -/
def State.loadInto (s : State) (m : RecMap) (c k : Nat) (l : Launch) (n : Nat) : Nat × State :=
  let h := hdrFields (l.hdrRd s)
  if ((s.core c).slots.getD k none).isSome then (5, s)
  else if !hdrValid (l.hdrRd s) || l.n s ≤ n then (1, s)
  else if s.recPoison m 0 (recBytes h) then (3, s.recordLost m l h n)
  else if !s.recordOk m h n || !s.flashOk m l h then (1, s)
  else if !s.mayPlace c l || s.queuedAway c l n then (11, s)
  else if !s.hasRoom c l h then (5, s)
  else if !s.hasBudget l h then (11, s)
  else
    match s.rebind c l h n with
    | .error (st, some o) => (st, (s.sramError o.1 o.2.2).loseObject o.1 o.2.1)
    | .error (st, none) => (st, s)
    | .ok (t, hs) =>
      match t.windowFor c l h with
      | none => (5, s)
      | some b =>
        let g := t.loadWg m c l h n b
        (0, (t.placeLoaded m c k { g with slots := hs }).noteStarted c l n)

/-- Restores a record of a launch, whose writes the function's dirty map tracks (R340). -/
def State.restore (s : State) (c k : Nat) (l : Launch) (n : Nat) : Nat × State :=
  let r := s.loadInto (s.recMapOf l n) c k l n
  if r.1 == 0 || r.1 == 3 then (r.1, r.2.track l.vf ((l.image.toNat + l.recOff s n) % 2 ^ 64)) else r

/-- Restores an entry of a core's resume list (R332), on that core, or on another core of the region where it may not run there: the
status, and the state. -/
def State.restoreTry (s : State) (c : Nat) (r : ResumeEntry) : Nat × State :=
  match s.launch? r.vf r.lid with
  | none => (6, s)
  | some l =>
    let t := if s.mayPlace c l then c else ((List.range s.cores.length).find? fun c => s.mayPlace c l).getD c
    match (s.core t).freeSlot with
    | none => (5, s)
    | some k => if r.held then (11, s) else s.restore t k l r.wgnum

/-- A start or a restore of workgroup n of a launch has changed something: the workgroup stands, its launch has been killed, its
record is to start afresh, or an object has been lost (R252, R254, R360). -/
def State.acted (s t : State) (l : Launch) (n : Nat) : Bool :=
  (match t.launch? l.vf l.lid with | some m => m.endedAs != none | none => true)
    || l.rd t (l.recOff t n) 1 != l.rd s (l.recOff s n) 1
    || t.cores.map (·.areas.length) != s.cores.map (·.areas.length)

/-- The restore of an entry changes something. -/
def State.restoreActs (s : State) (c : Nat) (r : ResumeEntry) : Bool :=
  let q := s.restoreTry c r
  q.1 == 0 || (match s.launch? r.vf r.lid with | some l => s.acted q.2 l r.wgnum | none => false)

def State.restoreEntry (s : State) (c : Nat) (r : ResumeEntry) : State := (s.restoreTry c r).2

/-- 1 ms has passed since the save. -/
def ResumeEntry.due (r : ResumeEntry) (clock : Nat) : Bool := !r.held && r.since + 1000 * usCycles ≤ clock

/-- PARKED_RESTORE_TIMEOUT (R332). -/
def execParkedRestoreTimeout (core index : Nat) (s : State) : Out :=
  match (s.core core).resume[index]? with
  | none => .next s
  | some r => if r.due s.clock then .next (s.restoreEntry core r) else .next s

/-! Affinity queues (R311) -/

/-- The launch of an entry of an affinity queue. -/
def State.affLaunch (s : State) (a : AffEntry) : Option Launch :=
  s.launches.find? fun l => l.vf == a.vf && l.image == a.image && l.endedAs == none

/-- The child that a record of STATE 6 names has not completed (R291, R303). -/
def Launch.childOut (l : Launch) (s : State) (n : Nat) : Bool :=
  let a := l.recOff s n
  let lid := l.rd s (a + 16) 4
  l.rd s a 1 == 6 &&
    (if lid == 0 then s.awaited.any fun x => x.vf == l.vf && x.rec_ == l.image.toNat + a && x.wait && x.result == none
     else s.launches.any (fun m => m.vf == l.vf && m.lid == lid && m.endedAs == none) || s.admits.any fun x => x.vf == l.vf && x.lid == lid)

/-- Core c starts, or restores, the workgroup of a ticket: the status, and the state; 11 while its child has not completed. -/
def State.startTicket (s : State) (c : Nat) (l : Launch) (n : Nat) : Nat × State :=
  if l.rd s (l.recOff s n) 1 == 0 then s.startWg c l n
  else if l.childOut s n then (11, s)
  else
    match (s.core c).freeSlot with
    | none => (5, s)
    | some k => s.restore c k l n

/-- What core `taker` does with entry `index` of a core's queue: the status, and the state; 6 without such an entry. The queue's own
core takes the oldest entry, another one an entry that has waited STEALB, or that stands on a lost core. A ticket that is skipped
leaves the queue (R291). -/
def State.steal (s : State) (queue index taker : Nat) : Nat × State :=
  match (s.core queue).affq[index]? with
  | none => (6, s)
  | some a =>
    let drop : State := s.modCore queue fun co => { co with affq := co.affq.eraseIdx index }
    match s.affLaunch a with
    | none => (0, drop)
    | some l => if l.skips s a.ticket then (0, drop) else s.startTicket taker l a.ticket

/-- What a core does with an entry changes something: it leaves the queue, or its start does. -/
def State.stealActs (s : State) (queue index taker : Nat) : Bool :=
  let r := s.steal queue index taker
  r.1 == 0 || (match ((s.core queue).affq[index]?).bind fun a => (s.affLaunch a).map fun l => (l, a.ticket) with
    | some q => s.acted r.2 q.1 q.2
    | none => false)

/-- A core that does not run takes nothing. -/
def State.canSteal (s : State) (queue index taker : Nat) : Bool :=
  !(s.core taker).lost && (s.string (stringOf taker)).gate == .awake && s.stealActs queue index taker

/-- AFFINITY_STEAL (R311): an ostler takes an entry of an affinity queue, and starts its workgroup on its own core. -/
def execAffinitySteal (queue index thief : Nat) (s : State) : Out := .next (s.steal queue index thief).2

/-- A core's own queue is worked off, oldest entry first, as far as its entries can start (R311). -/
def State.startOwn (s : State) (c : Nat) : State :=
  (List.range (s.core c).affq.length).foldl (fun s _ => if s.canSteal c 0 c then (s.steal c 0 c).2 else s) s

/-- Launches of one function in the order in which an ostler considers them: higher effective PRIO first, then lower LAUNCHID (R298). -/
def State.prefers (s : State) (a b : Launch) : Bool :=
  let p (l : Launch) : Nat := s.eff l.vf l.region.toNat 10
  p b < p a || (p a == p b && a.lid ≤ b.lid)

end Sys2Proof.Machine
end

