-- ==== Sys2Proof/Machine/RelayCmd.lean ====
section
/-!
DEFINITION. The relay commands of the driver (R198, R199), the beginning of a relay (R142, R266), and the grant of a role (R16, R17).
-/
namespace Sys2Proof.Machine

/-- The relay that the three words name (R198); none where a field is out of range. -/
def relayOf (g : Workgroup) (w body guess : W64) : Option Relay :=
  let r : Relay := { word := w, body, guess, base := 0, done := 0, rcarry := [], exit := false, begun := false, bodies := false,
                     legs := [], appends := [], undo := [], joins := [] }
  if 1 ≤ r.maxit && bitsOf w.toNat 31 16 == 0 && 1 ≤ r.ccnt && r.ccnt ≤ 8 && r.cbase + r.ccnt ≤ 256 && 2 ≤ r.width && r.width ≤ 8
    && r.width ≤ g.warps.length && body.toNat % 4 == 0 && guess.toNat % 4 == 0 then some r
  else none

/-- Warps outside the width that wait in `rjoin` go on (R142). -/
def Workgroup.passJoins (g : Workgroup) (clock width : Nat) : Workgroup :=
  { g with warps := (List.range g.warps.length).map fun w =>
      let x := g.warps.getD w default
      if width ≤ w && x.block == .rjoin then { x.passWord with block := .none, readySince := clock } else x }

/-- `relay`. -/
def execRelay (o : Op3) (s : State) : Out :=
  cmdWord (.relay o) o.ctl (fun it g =>
    match relayOf g (it.param o.a 0) (it.param o.a 1) (it.param o.a 2) with
    | none => it.trap { cls := .ill }
    | some r =>
      if !g.hdr.relay || g.relay.isSome then it.trap { cls := .ill }
      else
        it.run g o.ctl { cls := 6, pend := .relay, run := fun s =>
          (s.modWg it.core it.slot fun g => { g.passJoins s.clock r.width with relay := some r }, 0, 0) }) s

/-- Every warp of the width waits in `rjoin`, or has exited. -/
def Workgroup.joined (g : Workgroup) (r : Relay) : Bool :=
  (List.range r.width).all fun w => let x := g.warps.getD w default; x.gone || x.block == .rjoin

/-- Some leg cannot take part: it has exited, or declares too few registers (R198). -/
def Workgroup.legless (g : Workgroup) (r : Relay) : Bool :=
  (List.range r.width).any fun w => let x := g.warps.getD w default; x.gone || x.count < r.cbase + r.ccnt

/-- The relay that runs no round: status 1, and the waiting legs go on (R198). -/
def Workgroup.noRound (g : Workgroup) (clock : Nat) : Workgroup :=
  let g := { (g.passJoins clock 0) with relay := none, lastDone := 0 }
  let g := g.relayDone 1 0
  { g with drv := if g.drv.block == .rwait then { g.drv with block := .none } else g.drv }

/-- The first round (R266, R268). -/
def Workgroup.beginRelay (g : Workgroup) (clock : Nat) (r : Relay) : Workgroup :=
  g.startRound clock { r with
    begun := true
    rcarry := r.carryOf (g.warps.getD 0 default)
    legs := List.replicate r.width freshLeg
    joins := (List.range r.width).map fun w => (g.warps.getD w default).whole.pc }

/-- RELAY_BEGIN (R198). A collective that waited only for the new legs completes without them (R145); appends tagged for a relay that
runs no round are trimmed. -/
def execRelayBegin (core slot : Nat) (s : State) : Out :=
  match s.wg? core slot with
  | none => .next s
  | some g =>
    match g.relay with
    | none => .next s
    | some r =>
      if r.begun || !g.joined r then .next s
      else if g.legless r then
        .next (((s.dropLegs core slot g.vf r (List.range r.width)).modWg core slot fun g => g.noRound s.clock).settle core slot)
      else .next (((s.modWg core slot fun g => g.beginRelay s.clock r).carryHaz core slot r r.guessers).settle core slot)

/-- `rwait` (R199). -/
def execRwait (o : Op3) (s : State) : Out :=
  wgWord o.ctl (fun it g =>
    if g.relay.isSome then it.wait it.s .rwait else it.put it.s o.ctl o.d (BitVec.ofNat 64 g.lastDone)) s

/-- The grant of the role that a warp waits for is possible (R16). -/
def Workgroup.grantable (g : Workgroup) (w : Nat) : Bool :=
  let x := g.warps.getD w default
  match x.block with
  | .role k => decide (g.roleLack x k ≤ 0)
  | _ => false

/-- ROLE_GRANT (R16). -/
def execRoleGrant (core slot warp : Nat) (s : State) : Out :=
  match s.wg? core slot with
  | none => .next s
  | some g =>
    let x := g.warps.getD warp default
    match x.block with
    | .role k =>
      if !g.grantable warp then .next s
      else
        .next ((s.modWg core slot fun g => g.grantRole warp k s.clock).settle core slot)
    | _ => .next s

end Sys2Proof.Machine
end

