-- ==== Sys2Proof/Machine/Trust.lean ====
section
/-!
DEFINITION. The root of trust: SHA3-256, measurement registers, `rtcall`, and bring-up (R346, R368 to R370).
-/
namespace Sys2Proof.Machine

/-! SHA3-256 (named by R369; FIPS 202, log 30) -/

/-- Rotation of lane x + 5y. -/
def keccakRot : List Nat := [0, 1, 62, 28, 27, 36, 44, 6, 55, 20, 3, 10, 43, 25, 39, 41, 45, 15, 21, 8, 18, 2, 61, 56, 14]

/-- Round constants. -/
def keccakRc : List W64 :=
  [0x0000000000000001, 0x0000000000008082, 0x800000000000808A, 0x8000000080008000, 0x000000000000808B, 0x0000000080000001,
   0x8000000080008081, 0x8000000000008009, 0x000000000000008A, 0x0000000000000088, 0x0000000080008009, 0x000000008000000A] ++
  [0x000000008000808B, 0x800000000000008B, 0x8000000000008089, 0x8000000000008003, 0x8000000000008002, 0x8000000000000080,
   0x000000000000800A, 0x800000008000000A, 0x8000000080008081, 0x8000000000008080, 0x0000000080000001, 0x8000000080008008]

def lane64 (a : List W64) (i : Nat) : W64 := a.getD i 0

/-- One round on the 25 lanes. -/
def keccakRound (a : List W64) (rc : W64) : List W64 :=
  let c := (List.range 5).map fun x => (List.range 5).foldl (fun (t : W64) y => t ^^^ lane64 a (x + 5 * y)) 0
  let d := (List.range 5).map fun x => lane64 c ((x + 4) % 5) ^^^ (lane64 c ((x + 1) % 5)).rotateLeft 1
  let t := (List.range 25).map fun i => lane64 a i ^^^ lane64 d (i % 5)
  -- lane (x, y) of the next array comes from lane (x + 3y, x)
  let b := (List.range 25).map fun i =>
    let x := i % 5
    let y := i / 5
    let j := (x + 3 * y) % 5 + 5 * x
    (lane64 t j).rotateLeft (keccakRot.getD j 0)
  (List.range 25).map fun i =>
    let x := i % 5
    let y := i / 5
    let v := lane64 b i ^^^ (~~~ lane64 b ((x + 1) % 5 + 5 * y) &&& lane64 b ((x + 2) % 5 + 5 * y))
    if i == 0 then v ^^^ rc else v

def keccakF (a : List W64) : List W64 := keccakRc.foldl keccakRound a

/-- The padded message in blocks of 136 bytes: 06, zeros, and 80 in the last byte. -/
def sha3Pad (m : List Byte) : List Byte :=
  let q := 136 - m.length % 136
  if q == 1 then m ++ [0x86] else m ++ [0x06] ++ List.replicate (q - 2) 0 ++ [0x80]

/-- Absorbs n blocks. -/
def sha3Absorb : Nat → List W64 → List Byte → List W64
  | 0, a, _ => a
  | n + 1, a, m =>
    let a := (List.range 25).map fun i =>
      if i < 17 then lane64 a i ^^^ BitVec.ofNat 64 (leNat ((m.drop (8 * i)).take 8)) else lane64 a i
    sha3Absorb n (keccakF a) (m.drop 136)

/-- SHA3-256 of some bytes. -/
def sha3 (m : List Byte) : List Byte :=
  let p := sha3Pad m
  ((sha3Absorb (p.length / 136) (List.replicate 25 0) p).take 4).flatMap fun w => leBytes 8 w.toNat

/-! Measurement registers (R369) -/

def State.mreg (s : State) (i : Nat) : List Byte := s.mr.getD i (List.replicate 32 0)

/-- Extends a measurement register with an input. -/
def State.measure (s : State) (i : Nat) (input : List Byte) : State :=
  { s with mr := s.mr.set i (sha3 (s.mreg i ++ sha3 input)) }

/-- A signature of exactly 2,420 bytes by the identity key. -/
def signature (hash : List Byte) : List Byte :=
  (List.range Config.sigLen).map fun i => (Config.identitySign hash).getD i 0

/-! `rtcall` (R369) -/

/-- The fields of a request block. -/
structure Request where
  inAddr  : Nat
  w8      : Nat
  w16     : Nat
  out     : Nat
  rsv     : Bool
  deriving DecidableEq, Repr, Inhabited

/-- Physical memory as core `c` reads it at device scope, its own dirty bytes among it (R222); unspecified where any load of it is (R190,
R320). -/
def State.devBytes (s : State) (c pa n : Nat) : List Byte :=
  let a : Access := { core := c, slot := 0, vf := 64, scope := 2, sid := 0, cpol := 0 }
  let kv := s.kvRanges
  (List.range n).map fun i => s.loadByte a kv (pa + i)

/-- The request block at a physical address, as core `c` reads it. -/
def State.request (s : State) (c pa : Nat) : Request :=
  let w (off n : Nat) : Nat := leNat (s.devBytes c (pa + off) n)
  { inAddr := w 0 8, w8 := w 8 8, w16 := w 16 8, out := w 24 8, rsv := w 32 32 != 0 }

def Request.inLen (r : Request) : Nat := r.w8 / 2 ^ 32
def Request.kind (r : Request) : Nat := r.w8 / 8 % 2
/-- A call of function b is a quote. -/
def Request.quotes (r : Request) (b : Nat) : Bool := b == 2 && r.kind == 0
/-- Input bytes of function b: a quote's nonce has 32. -/
def Request.inBytes (r : Request) (b : Nat) : Nat := if r.quotes b then 32 else r.inLen

/-- A reserved bit, a misaligned address or an INLEN above 64 MiB: status 1. -/
def Request.bad (r : Request) (pa : Nat) : Bool :=
  r.rsv || bitsOf r.w8 31 4 != 0 || r.w16 / 2 ^ 32 != 0 || pa % 64 != 0 || r.inAddr % 64 != 0 || r.out % 64 != 0
    || 64 * 2 ^ 20 < r.inLen

/-- How a physical range fails: status 2 where nothing answers, 3 for poison. -/
def State.rangeFail (s : State) (pa n : Nat) : Nat :=
  if n == 0 then 0
  else if !populated pa || !populated (pa + n - 1) then 2
  else if (List.range ((pa + n + 63) / 64 - pa / 64)).any fun i => s.poison.contains (pa / 64 + i) then 3 else 0

/-- The physical ranges that a call uses: address and bytes. -/
def State.rtRanges (s : State) (c pa b : Nat) : List (Nat × Nat) :=
  let r := s.request c pa
  if 2 < b || pa % 64 != 0 then []
  else if r.bad pa then [(pa, 64)]
  else (pa, 64) :: (r.inAddr, r.inBytes b) :: (if b == 2 then [(r.out, (if r.quotes b then 288 else 0) + Config.sigLen)] else [])

/-- A line that the call needs and another core holds pinned (R228). -/
def State.rtPinned (s : State) (c pa b : Nat) : Option Nat :=
  (s.rtRanges c pa b).findSome? fun x =>
    (List.range s.cores.length).findSome? fun h =>
      if h == c then none
      else ((s.core h).l1.find? fun l => l.isDirty && x.1 / 64 ≤ l.line && 64 * l.line < x.1 + x.2).map (·.line)

/-- Writes an output and its OUTLEN, at L2 for core `c`. -/
def State.rtOut (s : State) (c pa out : Nat) (bs : List Byte) : State :=
  let a : Access := { core := c, slot := 0, vf := 64, scope := 2, sid := 0, cpol := 0 }
  (s.storeHaz a (bytesAt out bs)).storeHaz a (bytesAt (pa + 16) (leBytes 4 bs.length))

/-- Function b of the root of trust on the request that core `c` makes at a physical address: the status, and the state. -/
def State.rtcall (s : State) (c pa b : Nat) : Nat × State :=
  let f := s.rangeFail pa 64
  let r := s.request c pa
  let input := s.devBytes c r.inAddr (r.inBytes b)
  if 2 < b then (1, s)
  else if pa % 64 != 0 then (1, s)
  else if f != 0 then (f, s)
  else if r.bad pa then (1, s)
  else
    let f := s.rangeFail r.inAddr (r.inBytes b)
    if f != 0 then (f, s)
    else if b == 0 then (0, s.measure (r.w8 % 8) input)
    else if b == 1 then
      let n := r.inLen - Config.sigLen
      (if Config.sigLen ≤ r.inLen && Config.vendorVerify (sha3 (input.take n)) (input.drop n) then 0 else 11, s)
    else
      let out := if r.quotes b then
          let body := ((List.range 8).flatMap fun i => s.mreg i) ++ input
          body ++ signature (sha3 body)
        else signature (sha3 input)
      if !populated r.out || !populated (r.out + out.length - 1) then (2, s) else (0, s.rtOut c pa r.out out)

/-! Bring-up (R368, R370) -/

/-- The signed configuration image in flash, without its signature. -/
def flashImage (fl : List Byte) : List Byte := fl.take (leNat ((fl.drop 8).take 8))
def flashSig (fl : List Byte) : List Byte := (fl.drop (flashImage fl).length).take Config.sigLen

/-- A number in the configuration image. -/
def cfgNat (fl : List Byte) (off n : Nat) : Nat := leNat (((flashImage fl).drop off).take n)

/-- The ostler firmware, and its signature. -/
def firmwareImage : List Byte := Config.firmware.take (Config.firmware.length - Config.sigLen)
def firmwareSig : List Byte := Config.firmware.drop (Config.firmware.length - Config.sigLen)

/-- The margin section at an offset of flash, without its signature. -/
def marginBody (fl : List Byte) (off : Nat) : List Byte := (fl.drop off).take (Config.marginLen (fl.drop off))

/-- The operating points of the margin section; none where its signature by the identity key fails, or its entries lie outside the
vendor bounds (R356, R370 step 3; log 33). -/
def marginPoints (fl : List Byte) (off : Nat) : Option (List W64) :=
  let body := marginBody fl off
  let points := Config.marginTable body
  if Config.identityVerify (sha3 body) ((fl.drop (off + body.length)).take Config.sigLen) && Config.marginBounded points then some points
  else none

/-- The fields of the configuration image; a margin section that passes gives the operating points (R356). -/
def cfgOf (fl : List Byte) : CfgImage :=
  let n := cfgNat fl
  { nodeid := n 16 2 % 4096, dirn := n 32 4, hmark := n 36 2, fixedw := n 38 2, dirbase := n 40 8, gatebase := n 48 8,
    logbase := n 56 8, ctrbase := n 64 8, weights := BitVec.ofNat 64 (n 72 8), towto := n 80 4, ctlbase := n 88 8,
    marginOff := n 640 8
    opp := (marginPoints fl (n 640 8)).getD ((List.range 64).map fun i => BitVec.ofNat 64 (n (128 + 8 * i) 8)) }

/-- The ostler firmware verifies, and the configuration image does (R370 steps 1 and 2). -/
def firmwareOk : Bool := Config.vendorVerify (sha3 firmwareImage) firmwareSig
def configOk (fl : List Byte) : Bool :=
  Config.vendorVerify (sha3 (flashImage fl)) (flashSig fl) && cfgNat fl 0 6 == 0x1_4746_435A

/-- Rails at point 0 (R346). -/
def State.nominal (s : State) : State :=
  { s with rails := (List.range 4).map fun r =>
      { Rail.reset with level := s.opPoint r 0 % 65536, target := s.opPoint r 0 % 65536 } }

/-- BRING_UP (R370). -/
def execBringUp (s : State) : Out :=
  if s.up || s.brickd then .next s
  else if !firmwareOk then .next { s with brickd := true }
  else
    let s := s.measure 0 firmwareImage
    if !configOk s.flash then .next { s with brickd := true }
    else
      let s := s.measure 1 (flashImage s.flash)
      let img := cfgOf s.flash
      let s := if (marginPoints s.flash img.marginOff).isSome then s.measure 2 (marginBody s.flash img.marginOff) else s
      let s := ({ s with img } : State).nominal
      let mem := (s.mem.clear s.img.dirbase (32 * s.img.dirn)).writeList Config.firmwareBase firmwareImage
      .next { s with mem := mem, up := true, cores := s.cores.map fun co =>
        { co with ostler := { co.ostler with started := true, pc := Config.ostlerEntry } } }

end Sys2Proof.Machine
end

