-- ==== Sys2Proof/Machine/System.lean ====
section
/-!
DEFINITION. The system instructions (R200 to R203), as an ostler or a privileged driver issues them (R79, R249).
-/
namespace Sys2Proof.Machine

/-! One system word -/

/-- Runs a system word: wrong stream, privilege (R80 step 3), timed no-op, body. -/
def sysWord (c : Ctl) (body : DIssue → Out) (s : State) : Out :=
  if s.warpTurn then s.wrongStream
  else if !s.privileged then
    match s.drvIssue with
    | none => .fault .noAgent
    | some it => it.trap { cls := .priv }
  else drvWord c body s

/-- The end of a system word with a status. -/
def DIssue.status (it : DIssue) (s : State) (o : Op3) (st : Nat) : Out := it.put s o.ctl o.d (BitVec.ofNat 64 st)

/-- An operand that names a virtual function: the status that it gives by itself, or the function (R200). -/
def DIssue.vfArg (it : DIssue) (v : W64) : Except Nat Nat :=
  if 63 < v.toNat then .error 1
  else
    match it.wg with
    | some g => if g.vf == v.toNat then .ok v.toNat else .error 11
    | none => .ok v.toNat

/-- A slot that holds a workgroup of another function than the driver's (R200). -/
def DIssue.foreign (it : DIssue) (k : Nat) : Bool :=
  match it.wg, it.s.wg? it.core k with
  | some g, some h => g.vf != h.vf
  | _, _ => false

/-- The stream issues the word again in the next cycle. -/
def DIssue.again (it : DIssue) : Out :=
  .next (match it.wg with
    | some _ => it.s.modDrv it.core it.slot fun x => { x with readyAt := it.s.clock + 1 }
    | none => it.s.modOstler it.core fun x => { x with readyAt := it.s.clock + 1 })

/-- The first line of some ranges of the stream that another core holds pinned, with its address. -/
def DIssue.pinned (it : DIssue) (rs : List (Nat × Nat)) : Option (Nat × Nat) :=
  if it.s.cores.all fun co => co.l1.all fun l => !l.isDirty then none
  else rs.findSome? fun r =>
    (pieces r.1 r.2).findSome? fun p =>
      let at_ (need : Need) : Option Nat :=
        match it.s.xlate it.core it.ctx (p.1 % 2 ^ 64) need with | .ok pa => some pa | .error _ => none
      ((at_ .read).or (at_ .write)).bind fun pa =>
        if (it.s.holder it.core (lineOf pa)).isSome then some (lineOf pa, p.1 % 2 ^ 64 / 64 * 64) else none

/-- Some memory that the word needs is pinned: a driver waits under RETRY, an ostler tries again (R228, R229). -/
def DIssue.unpinnedSys (it : DIssue) (rs : List (Nat × Nat)) (k : Unit → Out) : Out :=
  match it.pinned rs with
  | none => k ()
  | some p =>
    match it.wg with
    | some g => it.holdDriver g p.1 p.2
    | none => it.again

/-- A word of an ostler that reaches memory in the context of a function which a `draint` holds back waits for the `scrub` (R203). -/
def DIssue.afterScrub (it : DIssue) (k : Unit → Out) : Out := if it.heldBack && it.wg.isNone then it.again else k ()

/-- The map of a record at an address of the stream. -/
def DIssue.recMap (it : DIssue) (va : Nat) (need : Need) : RecMap := fun off =>
  match it.s.xlate it.core it.ctx ((va + off) % 2 ^ 64) need with
  | .ok pa => some pa
  | .error _ => none

/-- Every byte of a range translates. -/
def DIssue.reaches (it : DIssue) (va n : Nat) (need : Need) : Bool :=
  match it.s.xlateRange it.core it.ctx va n need with
  | .ok _ => true
  | .error _ => false

/-! Control registers (R201) -/

/-- `swrite`. -/
def execSwrite (o : Op3) (s : State) : Out :=
  sysWord o.ctl (fun it =>
    let v := it.val o.b
    let n := v.toNat
    let s := it.s
    match (it.val o.a).toNat with
    | 0 => it.done (if 1 ≤ n && n ≤ 1000000 then { s with pinwait := n } else s) o.ctl
    | 1 => it.done (if n ≤ 10000000 then { s with stealb := n } else s) o.ctl
    | 2 => it.done (if 1 ≤ n && n ≤ 16 then { s with parkth := n } else s) o.ctl
    | 3 => it.done { s with dispstop := v } o.ctl
    | 4 =>
      it.done (if it.wg.isNone && n < 256 && n / 64 % 2 == 0 then
        s.modOstler it.core fun x => { x with ctx := BitVec.ofNat 8 n } else s) o.ctl
    | _ => it.trap { cls := .ill }) s

/-- Reads for `rtt` in the stream's context; a block of 256 bytes with a poisoned line cannot be read (R294; log 36). -/
def DIssue.reader (it : DIssue) : Reader := fun va n =>
  match it.s.xlate it.core it.ctx (va % 2 ^ 64) .read with
  | .ok pa =>
    let acc : Access := { core := it.core, slot := 8, vf := it.tag, scope := 2, sid := 0, cpol := 0 }
    if it.s.accPoison acc ((List.range 4).map fun i => pa / 256 * 256 + 64 * i) then none
    else some (leNat ((List.range n).map fun i => it.s.devByte it.core (pa + i)))
  | .error _ => none

/-- `rtt` (R294). -/
def execRtt (o : Op3) (s : State) : Out :=
  sysWord o.ctl (fun it =>
    let f := (it.val o.b).toNat
    let a := (it.val o.a).toNat
    it.afterScrub fun _ => it.unpinnedSys ((a :: (rcbChain it.reader 8 a).getD []).map fun x => (x, 256)) fun _ =>
    match (if 14 < f then none else rcbChain it.reader 8 a) with
    | none => it.put it.s o.ctl o.d (BitVec.allOnes 64)
    | some ch =>
      let v := rcbEff it.reader f ch
      it.put it.s o.ctl o.d (BitVec.ofNat 64 (if f == 2 || f == 4 then popNat 512 v else v))) s

/-! Contexts (R200, R254, R334) -/

/-- The record stands on the core's resume list where its parked warps have asked for the save, or its function is paused (R332, R340);
that of a launch that a reset has killed meanwhile becomes STATE 5 (R364). -/
def State.holdRecord (s : State) (c : Nat) (g : Workgroup) : State :=
  let pause := (s.vf g.vf).pause
  match (s.launchOf g).filter (·.endedAs.isSome) with
  | some l => l.wr s (l.recOff s g.wgnum) 1 5
  | none =>
  if s.parkedOut g || g.parkAsked || pause then s.modCore c fun co => { co with
      resume := co.resume ++ [{ vf := g.vf, lid := g.lid, wgnum := g.wgnum, since := s.clock, held := pause }] }
  else s

/-- The workgroup is halted and its save waits for commands in flight; a driver that saves still issues the word, also where its own
workgroup is halted, so that a save in flight completes (R200, R336, R364). -/
def DIssue.haltAndWait (it : DIssue) (k : Nat) : Out :=
  let s := it.s.modWg it.core k fun g => { g with halted := true, inSave := true }
  .next (match it.wg with
    | some _ => s.modDrv it.core it.slot fun x => { x with readyAt := s.clock + 1, block := .saving }
    | none => s.modOstler it.core fun x => { x with readyAt := s.clock + 1 })

/-- `ctxsave`; an empty slot gives 6, as `halt` has it (log 36). The word has ended before the save, so that a driver which saves itself resumes after it. -/
def execCtxsave (o : Op3) (s : State) : Out :=
  sysWord o.ctl (fun it =>
    let k := (it.val o.b).toNat
    let va := (it.val o.a).toNat
    match it.s.wg? it.core k with
    | none => it.status it.s o 6
    | some g =>
      if it.foreign k then it.status it.s o 11
      else it.afterScrub fun _ =>
      if !it.reaches va (recBytes g.hdr) .write then it.status it.s o 2
      else it.unpinnedSys [(va, recBytes g.hdr)] fun _ =>
      if g.saveWaits (it.s.core it.core).passesRun false then it.haltAndWait k
      else
        let st := if (it.s.core it.core).badWindow g then 3 else 0
        let s := it.goto it.s o.ctl (dNo o.d) (BitVec.ofNat 64 st) (it.pc + 12)
        match s.wg? it.core k with
        | none => .next s
        | some g =>
          let s := (s.saveWg (it.recMap va .write) it.core k g (o.var.getLsbD 0) none).holdRecord it.core g
          .next (match it.ctx with | some f => s.trackRange f va (recBytes g.hdr) | none => s)) s

/-- `ctxload`. -/
def execCtxload (o : Op3) (s : State) : Out :=
  sysWord o.ctl (fun it =>
    let k := (it.val o.b).toNat
    let va := (it.val o.a).toNat
    let m := it.recMap va .read
    it.afterScrub fun _ =>
    if !it.reaches va 64 .rw then it.status it.s o 2
    else if 8 ≤ k then it.status it.s o 1
    else if it.foreign k then it.status it.s o 11
    else
      match it.s.recordAt m with
      | none => it.status it.s o 1
      | some (l, n) =>
        let len := recBytes (hdrFields (l.hdrRd it.s))
        if !it.reaches va len .read then it.status it.s o 2
        else it.unpinnedSys [(va, len)] fun _ =>
          let r := it.s.loadInto m it.core k l n
          it.status (match it.ctx with | some f => if r.1 == 0 || r.1 == 3 then r.2.track f va else r.2 | none => r.2) o r.1) s

/-- `halt`: no word of the workgroup issues any more (R330; log 12). -/
def execHalt (o : Op3) (s : State) : Out :=
  sysWord o.ctl (fun it =>
    let k := (it.val o.b).toNat
    match it.s.wg? it.core k with
    | none => it.status it.s o 6
    | some _ =>
      if it.foreign k then it.status it.s o 11
      else
        let s := it.goto it.s o.ctl (dNo o.d) 0 (it.pc + 12)
        .next (s.modWg it.core k fun g => { g with halted := true })) s

/-- `wgstart`. -/
def execWgstart (o : Op3) (s : State) : Out :=
  sysWord o.ctl (fun it =>
    let va := (it.val o.a).toNat
    it.afterScrub fun _ =>
    match it.s.xlate it.core it.ctx va .read with
    | .error _ => it.status it.s o 2
    | .ok pa =>
      match it.s.launchAt pa with
      | none => it.status it.s o 1
      | some l =>
        let n := (it.val o.b).toNat
        it.unpinnedSys [(va, 320), (va + l.dtab it.s, 64), (va + l.recOff it.s n, 8)] fun _ =>
        let r := it.s.startWg it.core l n
        it.status r.2 o r.1) s

/-! Translations (R247, R248, R332) -/

/-- What a `tlbinv` covers: one page of a function, a function, everything. -/
inductive Inval where
  | page (f va : Nat)
  | vf (f : Nat)
  | all
  deriving DecidableEq, Repr, Inhabited

/-- A cached translation is dropped. -/
def Inval.drops (i : Inval) (e : TlbEntry) : Bool :=
  match i with
  | .page f va => e.vf == f && e.va ≤ va && va < e.va + e.size
  | .vf f => e.vf == f
  | .all => true

/-- A table that the walk caches hold is dropped. -/
def Inval.dropsWalk (i : Inval) (w : WalkEntry) : Bool :=
  match i with
  | .page f va => w.vf == f && w.va ≤ va && va < w.va + tableSpan w.lvl
  | .vf f => w.vf == f
  | .all => true

/-- The function is covered whole. -/
def Inval.coversVf (i : Inval) (f : Nat) : Bool :=
  match i with
  | .page _ _ => false
  | .vf g => f == g
  | .all => true

/-- The absent page, or its function, is covered. -/
def State.covers (s : State) (i : Inval) (f page : Nat) : Bool :=
  match i with
  | .page g va =>
    f == g && (page == va / 65536 * 65536 ||
      (match s.walk f page .read with | .ok e => e.va ≤ va && va < e.va + e.size | .error _ => false))
  | _ => i.coversVf f

/-- Warps and drivers of a workgroup that wait for a covered page try again (R248). -/
def State.unparkWg (s : State) (i : Inval) (g : Workgroup) : Workgroup :=
  { g with
    warps := g.warps.map fun w =>
      match w.block with
      | .parked f page => if s.covers i f page then { w with block := .none, readySince := s.clock } else w
      | _ => w
    drv := match g.drv.block with
      | .tran f page => if s.covers i f page then { g.drv with block := .none } else g.drv
      | _ => g.drv }

/-- Invalidates translations, wakes what waits for them, and restores the records that wait for the function (R247, R248, R332,
R350). -/
def State.tlbinv (s : State) (i : Inval) : State :=
  let s : State := { s with cores := s.cores.map fun co => { co with tlb := co.tlb.filter fun e => !i.drops e }
                            walks := s.walks.filter fun w => !i.dropsWalk w }
  let s := s.residents.foldl (fun (s : State) p =>
    let g := s.unparkWg i p.2.2
    if g == p.2.2 then s else (s.modWg p.1 p.2.1 (s.unparkWg i)).wakeFor p.1) s
  (List.range s.cores.length).foldl (fun s c =>
    (s.core c).resume.foldl (fun s r => if i.coversVf r.vf then s.restoreEntry c r else s) s) s

/-- `tlbinv.pg`. -/
def execTlbinvPg (o : Op3) (s : State) : Out :=
  sysWord o.ctl (fun it =>
    match it.vfArg (it.val o.b) with
    | .error st => it.status it.s o st
    | .ok f => it.status (it.s.tlbinv (.page f (it.val o.a).toNat)) o 0) s

/-- `tlbinv.vf`. -/
def execTlbinvVf (o : Op3) (s : State) : Out :=
  sysWord o.ctl (fun it =>
    match it.vfArg (it.val o.b) with
    | .error st => it.status it.s o st
    | .ok f => it.status (it.s.tlbinv (.vf f)) o 0) s

/-- `tlbinv.all`. -/
def execTlbinvAll (o : Op3) (s : State) : Out := sysWord o.ctl (fun it => it.status (it.s.tlbinv .all) o 0) s

/-! L2 operations (R200, R242) -/

/-- The lines of a range of the stream; none where one does not translate. In a function's context the range needs read permission
(log 36). -/
def DIssue.rangeLines (it : DIssue) (va n : Nat) : Option (List Nat) :=
  (pieces va n).foldr (fun p acc =>
    match it.s.xlate it.core it.ctx (p.1 % 2 ^ 64) .read, acc with
    | .ok pa, some l => some (lineOf pa :: l)
    | _, _ => none) (some [])

/-- L2 lines that satisfy `p` are written back to HBM. -/
def State.l2Clean (s : State) (p : L2Line → Bool) : State :=
  s.setL2 (s.l2.map fun l => if p l then { l with dirty := false } else l)

/-- Clean L2 lines that satisfy `p` are discarded. -/
def State.l2Drop (s : State) (p : L2Line → Bool) : State := s.setL2 (s.l2.filter fun l => l.dirty || !p l)

/-- An L2 operation on a range. -/
def l2Range (o : Op3) (f : (L2Line → Bool) → State → State) (s : State) : Out :=
  sysWord o.ctl (fun it =>
    match it.rangeLines (it.val o.a).toNat (it.val o.b).toNat with
    | none => it.status it.s o 2
    | some ls => it.status (f (fun l => ls.contains l.line) it.s) o 0) s

def execL2opWb (o : Op3) (s : State) : Out := l2Range o (fun p s => s.l2Clean p) s
def execL2opInv (o : Op3) (s : State) : Out := l2Range o (fun p s => s.l2Drop p) s
def execL2opWbi (o : Op3) (s : State) : Out := l2Range o (fun p s => (s.l2Clean p).l2Drop p) s

/-- `l2op.vfwb`. -/
def execL2opVfwb (o : Op3) (s : State) : Out :=
  sysWord o.ctl (fun it =>
    match it.vfArg (it.val o.a) with
    | .error st => it.status it.s o st
    | .ok f => it.status (it.s.l2Clean fun l => l.vf == f) o 0) s

/-! Claims (R202, R297, R301, R302, R311, R340, R360; log 31) -/

/-- What the counter of a claim is. -/
inductive Counter where
  /-- HEAD of queue q of function f -/
  | head (f q : Nat)
  /-- the word with CQHEAD of a region's child queue -/
  | child (f region : Nat)
  /-- TICKET of a launch -/
  | ticket (l : Launch)
  | other
  deriving DecidableEq, Repr, Inhabited

/-- The function's address translates to a physical address. -/
def State.isAt (s : State) (f va pa : Nat) : Bool :=
  match s.devXlate f (va % 2 ^ 64) .read with
  | .ok p => p == pa
  | .error _ => false

/-- The counter at a physical address, for an ostler of a core: HEAD and CQHEAD are such where its string is the function's
(R297, R302). -/
def State.counterAt (s : State) (core pa : Nat) : Counter :=
  let heads := (s.functionsOf (stringOf core)).findSome? fun f =>
    if (s.vf f).topRcb == 0 then none
    else ((List.range 16).find? fun q => s.isAt f (s.queueVa f q + 16) pa).map fun q => Counter.head f q
  match heads with
  | some h => h
  | none =>
    match s.launches.find? fun l => l.endedAs == none && s.isAt l.vf (l.image.toNat + l.dtab s) pa with
    | some l => .ticket l
    | none =>
      -- children of a region wait on, whether a launch that names it still lives or not
      match s.launches.find? fun l =>
        (s.functionsOf (stringOf core)).contains l.vf && s.isAt l.vf (l.region.toNat + 32) pa with
      | some l => .child l.vf l.region.toNat
      | none => .other

/-- Entry c of a host queue, which an ostler has claimed. An entry that cannot be read stops the queue; a disabled or stopped queue
has none. -/
def State.headClaim (s : State) (f q c : Nat) : State :=
  let d := s.queueVa f q
  let n := s.dev f (d + 8) 4
  let a := s.dev f d 8 + 64 * (c % n)
  if ((s.vf f).queue q).stopped || n == 0 then s
  else
    match (s.queueFail f d 32).or (s.queueFail f a 64) with
    | some cls => s.stopQueue f q cls
    | none => s.claimEntry f q 0 (s.queueEntry f a)

/-- The same for a region's child queue. -/
def State.childClaim (s : State) (f region c : Nat) : State :=
  let n := s.dev f (region + 32) 2
  if !cqnOk n then s
  else
    s.claimEntry f 16 region (s.queueEntry f (s.dev f (region + 24) 8 + 64 * (c % n)))

/-- What the claim of the value c from a counter brings about; a claimed ticket may be queued on its key's berth (R311). -/
def State.claimed (s : State) (core : Nat) (k : Counter) (c : Nat) : State :=
  match k with
  | .head f q => s.headClaim f q c
  | .child f r => s.childClaim f r c
  | .ticket l => if c < l.n s then s.queueByKey core l c else s
  | .other => s

/-- What a claim from a counter on a poisoned line brings about (R360); none where the word faults with ECCU. -/
def State.deadClaim (s : State) (k : Counter) : Option State :=
  match k with
  | .head f q => some (s.stopQueue f q 7)
  | .ticket l => some (s.killLaunches true [l])
  | _ => none

/-- The value of a counter within its 8 bytes, and the 8 bytes with the next value. -/
def Counter.value (k : Counter) (w : Nat) : Nat :=
  match k with
  | .child _ _ => bitsOf w 31 16
  | _ => w

def Counter.next (k : Counter) (w : Nat) : Nat :=
  match k with
  | .child _ _ => w / 2 ^ 32 * 2 ^ 32 + (bitsOf w 31 16 + 1) % 65536 * 65536 + w % 65536
  | _ => (w + 1) % 2 ^ 64

/-- `qclaim` (R202): a release, the claim, an acquire, at device scope on stream 0. Before it claims a ticket the core starts what its
own affinity queue holds (R311). -/
def execQclaim (o : Op3) (s : State) : Out :=
  sysWord o.ctl (fun it =>
    let va := (it.val o.a).toNat
    let lim := (it.val o.b).toNat
    let ones := BitVec.allOnes 64
    match it.gate o.ctl va 8 .rw o.d with
    | .stop r => r
    | .go pa =>
      match it.regs pa with
      | some b =>
        let s := it.releases true 0 it.s
        let acc : Access := { core := it.core, slot := 8, vf := it.tag, scope := 2, sid := 0, cpol := 0 }
        let c := leNat (s.regBytes it.core pa b 8)
        if c < lim then it.put (it.acquires true (s.regStore acc pa b (leBytes 8 (c + 1)))) o.ctl o.d (BitVec.ofNat 64 c)
        else it.put (it.acquires true s) o.ctl o.d ones
      | none =>
        let k := it.s.counterAt it.core pa
        let acc : Access := { core := it.core, slot := 8, vf := it.tag, scope := 2, sid := 0, cpol := 0 }
        let as := (List.range 8).map (pa + ·)
        let s := it.releases true 0 (it.s.xlateFill it.core it.ctx va)
        if it.s.accPoison acc as then
          match s.deadClaim k with
          | none => it.trap { cls := .eccu, x := va / 64 * 64 }
          | some s => it.put (it.acquires true s) o.ctl o.d ones
        else
          let s := match k with | .ticket _ => s.startOwn it.core | _ => s
          let w := leNat (as.map (s.accByte acc))
          let c := k.value w
          if c < lim then
            let s := it.track (s.storeHaz acc (as.zip (leBytes 8 (k.next w)))) va
            it.put (it.acquires true (s.claimed it.core k c)) o.ctl o.d (BitVec.ofNat 64 c)
          else it.put (it.acquires true s) o.ctl o.d ones) s

/-! Draining and scrubbing (R203, R307, R363) -/

/-- A workgroup of the function runs, or a save of one is in flight (R364). -/
def State.runs (s : State) (f : Nat) : Bool := s.residents.any fun p => p.2.2.vf == f && (!p.2.2.halted || p.2.2.inSave)

/-- `draint`: accesses are performed as they issue, so none is in flight; later requests are held back. -/
def execDraint (o : Op3) (s : State) : Out :=
  sysWord o.ctl (fun it =>
    match it.vfArg (it.val o.a) with
    | .error st => it.status it.s o st
    | .ok f =>
      if it.s.runs f then it.status it.s o 11
      else it.status (it.s.modVf f fun v => { v with drained := true, heldBack := true }) o 0) s

/-- A halted workgroup is scrubbed: registers, window and tiles are zeroed, and its slot is free. -/
def State.scrubWg (s : State) (c k : Nat) (g : Workgroup) : State :=
  let n := winBytes g.hdr.scratch
  let s := (s.clearBindings g.vf g.region.toNat g.lid g.wgnum).releaseCaptures g
  let s := s.modCore c fun co => { co.vacate g.winBase n with scratch := co.scratch.clear g.winBase n }
  s.setSlot c k none

/-- An object leaves core memory: its durable shadow stays, an entry without one is cleared (R307). -/
def State.scrubObject (s : State) (c : Nat) (o : ObjArea) : State :=
  let s := s.modCore c fun co =>
    { co.vacate o.base o.size with areas := co.areas.filter (fun x => x != o), scratch := co.scratch.clear o.base o.size }
  match s.dir? o.vf o.region.toNat with
  | none => s
  | some d =>
    if (s.objEnt o.vf d o.entry).dur then
      let s := (List.range 8).foldl (fun s b => s.dirWrite o.vf d.base o.entry (64 + 8 * b) 8 0) s
      s.dirWrite o.vf d.base o.entry 16 1 3
    else s.clearEnt o.vf d o.entry

/-- `scrub` of a function. -/
def State.scrub (s : State) (f : Nat) : State :=
  let s : State := { s with cores := s.cores.map fun co => { co with l1 := co.l1.filter fun l => l.vf != f } }
  let s := s.residents.foldl (fun s p => if p.2.2.vf == f then s.scrubWg p.1 p.2.1 p.2.2 else s) s
  let s := (List.range s.cores.length).foldl (fun s c =>
    ((s.core c).areas.filter fun o => o.vf == f).foldl (fun s o => s.scrubObject c o) s) s
  s.modVf f fun v => { v with heldBack := false }

/-- `scrub`. -/
def execScrub (o : Op3) (s : State) : Out :=
  sysWord o.ctl (fun it =>
    match it.vfArg (it.val o.a) with
    | .error st => it.status it.s o st
    | .ok f =>
      if it.s.runs f || !(it.s.vf f).drained then it.status it.s o 11 else it.status (it.s.scrub f) o 0) s

/-! Power (R200, R201, R346, R349, R350) -/

/-- VMV × ILIM of an operating point, in mW. -/
def pointPower (p : Nat) : Nat := p % 65536 * bitsOf p 31 16

/-- Power of the selected points with point k on a rail, in mW (R346). -/
def State.boardPower (s : State) (rail k : Nat) : Nat :=
  ((List.range 4).map fun r => pointPower (s.opPoint r (if r == rail then k else (s.rails.getD r Rail.reset).point))).sum
    + 1000 * s.img.fixedw

/-- The rail takes point k: the SRAM rail at once, which ends a hold (R352), the others within 50 µs. -/
def State.setPoint (s : State) (rail k : Nat) : State :=
  let v := s.opPoint rail k % 65536
  let s := s.railLog 5 rail 255 0
  let r := s.rails.getD rail Rail.reset
  let due := s.clock + Config.freeNat s.free 3 % (50 * usCycles + 1)
  { s.bump with rails := s.rails.set rail (if rail == 2 then { r with point := k, level := v, target := v, ramp := none, hold := none }
      else { r with point := k, target := v, ramp := some due }) }

/-- Point k of a rail as the margin section of flash has it now: a re-planned point takes effect at its next `pwrset` (R356; log
33). -/
def State.replanned (s : State) (rail k : Nat) : State :=
  match marginPoints s.flash s.img.marginOff with
  | some m => { s with img := { s.img with opp := s.img.opp.set (16 * rail + k) (m.getD (16 * rail + k) 0) } }
  | none => s

/-- `pwrset`. -/
def execPwrset (o : Op3) (s : State) : Out :=
  sysWord o.ctl (fun it =>
    let rail := (it.val o.a).toNat
    let k := (it.val o.b).toNat
    if 3 < rail || 15 < k then it.status it.s o 1 else
    let s := it.s.replanned rail k
    if s.opPoint rail k == 0 then it.status it.s o 1
    else if 2200000 < s.boardPower rail k then it.status it.s o 11
    else it.status (s.setPoint rail k) o 0) s

/-- `strset`; bits [63:24] of the parameter word are reserved and ignored (R10, R201). -/
def execStrset (o : Op3) (s : State) : Out :=
  sysWord o.ctl (fun it =>
    let n := (it.val o.a).toNat
    let w := (it.val o.b).toNat
    let refill := bitsOf w 23 16
    let imbth := w % 256
    if 63 < n || refill == 0 || imbth == 0 || 50 < imbth then it.status it.s o 1
    else it.status (it.s.modString n fun t => { t with refill := refill, bcap := bitsOf w 15 8, imbth := imbth }) o 0) s

/-- An agent of the workgroup is under RETRY. -/
def Workgroup.retries (g : Workgroup) : Bool :=
  (match g.drv.block with | .pin _ _ _ => true | _ => false) || g.warps.any fun w =>
    (match w.block with | .pin _ _ _ => true | _ => false)
      || w.waits.any fun q => match q.kind with | .pin _ _ _ => true | _ => false

/-- The core is idle in this cycle (R349). -/
def State.coreIdle (s : State) (c : Nat) : Bool :=
  let co := s.core c
  co.feAt != s.clock + 1 && co.affq.isEmpty && co.resume.isEmpty && co.passes == 0 && co.pipes.all (· ≤ s.clock)
    && co.slots.all fun g =>
        match g with
        | none => true
        | some g => g.flying.isEmpty && !g.retries
            && !g.open_.any fun q => q.pend != .none

/-- Every core of the string is idle in this cycle; a lost core is once its affinity queue and its resume list are empty (R349, R359). -/
def State.stringIdle (s : State) (n : Nat) : Bool :=
  (List.range 4).all fun j =>
    let co := s.core (4 * n + j)
    if co.lost then co.affq.isEmpty && co.resume.isEmpty else s.coreIdle (4 * n + j)

/-- Bytes of a string's gating area (R349). -/
def gateArea : Nat := 8 * 2 ^ 20

/-- The gating sequence begins (R349): write-backs and invalidation of the L1s; the registers, windows and tiles of resident workgroups
go to the gating area, in a layout that no rule gives, so that its bytes are unspecified (log 33). They come back from it unchanged. -/
def State.gateStart (s : State) (n : Nat) : State :=
  let s := (List.range 4).foldl (fun (s : State) j =>
    (s.writeBackIf (4 * n + j) (fun _ => true)).modCore (4 * n + j) fun co => { co with l1 := [], latch := none }) s
  let s := if s.img.gatebase == 0 || !s.residents.any fun p => stringOf p.1 == n then s
    else (s.bump).everywhere (freeRange s.free [(s.img.gatebase + gateArea * n, gateArea)])
  s.modString n fun t => { t with gate := .gating false }

/-- A word on a string. -/
def stringWord (o : Op3) (body : DIssue → Nat → Out) (s : State) : Out :=
  sysWord o.ctl (fun it =>
    let n := (it.val o.a).toNat
    if 63 < n then it.status it.s o 1 else body it n) s

/-- `gate.now`: 11 under `gate.hold`, where a core of the string is not idle in this cycle, and on a string that wakes (R200, R350;
log 33). The core that issues it is busy in this cycle, and the words of the other cores come before it (R358). -/
def execGateNow (o : Op3) (s : State) : Out :=
  stringWord o (fun it n =>
    let t := it.s.string n
    match t.gate with
    | .awake =>
      if t.hold || stringOf it.core == n || !it.s.stringIdle n then it.status it.s o 11
      else it.status (it.s.gateStart n) o 0
    | .waking _ => it.status it.s o 11
    | _ => it.status it.s o (if t.hold then 11 else 0)) s

/-- `gate.wake`. -/
def execGateWake (o : Op3) (s : State) : Out := stringWord o (fun it n => it.status (it.s.wakeFor (4 * n)) o 0) s

/-- `gate.hold`. -/
def execGateHold (o : Op3) (s : State) : Out :=
  stringWord o (fun it n => it.status (it.s.modString n fun t => { t with hold := true }) o 0) s

/-- `gate.auto`. -/
def execGateAuto (o : Op3) (s : State) : Out :=
  stringWord o (fun it n => it.status (it.s.modString n fun t => { t with hold := false }) o 0) s

/-! The root of trust (R369) -/

/-- `rtcall` on the function that B names; pinned memory of the request makes a driver wait and an ostler try again (R228, R229). -/
def rtcallWord (o : Op3) (s : State) : Out :=
  sysWord o.ctl (fun it =>
    let pa := (it.val o.a).toNat
    let b := (it.val o.b).toNat
    match it.s.rtPinned it.core pa b with
    | none => let r := it.s.rtcall it.core pa b; it.status r.2 o r.1
    | some ln =>
      match it.wg with
      | some g => it.holdDriver g ln (64 * ln)
      | none => it.again) s

def execRtcallMeasure (o : Op3) (s : State) : Out := rtcallWord o s
def execRtcallVerify (o : Op3) (s : State) : Out := rtcallWord o s
def execRtcallQuote (o : Op3) (s : State) : Out := rtcallWord o s
def execRtcallMarginSignature (o : Op3) (s : State) : Out := rtcallWord o s

end Sys2Proof.Machine
end

