-- ==== Sys2Proof/Machine/Events.lean ====
section
/-!
DEFINITION. What the hardware does at certain times: promotion (R214), the end of a pin wait (R229), TIMER (R338), and the slices of
a shared string (R342).
-/
namespace Sys2Proof.Machine

/-! Promotion (R211, R214) -/

/-- The warp is ready: it waits for nothing and a gang of it can issue. -/
def Warp.ready (w : Warp) (clock : Nat) : Bool := w.block == .none && w.readyAt ≤ clock && w.pick.isSome

/-- The warp has been ready without issuing for 4,096 cycles. -/
def Warp.starving (w : Warp) (clock : Nat) : Bool :=
  !w.promo && w.readySince + 4096 ≤ clock && w.readyAt + 4096 ≤ clock && w.ready clock

/-- WARP_PROMOTION. -/
def execWarpPromotion (core slot warp : Nat) (s : State) : Out :=
  match s.wg? core slot with
  | none => .next s
  | some g =>
    if !g.halted && (g.warps.getD warp default).starving s.clock then
      .next (s.modWarp core slot warp fun w => { w with promo := true })
    else .next s

/-! Pins (R229) -/

/-- No other core holds the line pinned. -/
def State.lineFree (s : State) (c ln : Nat) : Bool := (s.holder c ln).isNone

/-- A gang waits under RETRY on a line that is free again. -/
def State.freed (s : State) (c : Nat) (q : GWait) : Bool :=
  match q.kind with
  | .pin ln _ _ => q.held && s.lineFree c ln
  | _ => false

/-- Gangs whose lines are free again may issue their words; PINWAIT goes on counting from the first RETRY. -/
def State.release (s : State) (c k w : Nat) : State :=
  s.modWarp c k w fun x =>
    { x with waits := x.waits.map fun q => if s.freed c q then { q with held := false } else q
             readySince := if x.pick.isNone then s.clock else x.readySince }

/-- A commit of the workgroup's relay waits on a line that is free again (R270). -/
def State.commitDue (s : State) (c : Nat) (g : Workgroup) : Bool :=
  g.warps.any fun w => match w.block with | .pin ln _ _ => s.lineFree c ln | _ => false

/-- A command of the workgroup that has waited in its batch, and may run now: batch, place, command (R158, R229). It tries once a
cycle. -/
def State.retryDue (s : State) (c : Nat) (g : Workgroup) : Option (Nat × Nat × Retry) :=
  if (s.vf g.vf).heldBack || (g.trapped 16).isSome then none
  else (List.range 17).findSome? fun b =>
    let n := if b == 16 then g.open_.length else (g.batches.getD b { state := .idle, cmds := [] }).cmds.length
    (List.range n).findSome? fun i =>
      (g.retryAt b i).bind fun r =>
        if r.tried != s.clock + 1 && r.line.all (fun l => s.lineFree c l.1) then some (b, i, r) else none

/-- PINWAIT has passed since a clock value. -/
def State.pinOver (s : State) (since : Nat) : Bool := since + s.pinwait * usCycles ≤ s.clock

/-- The trap of an access to a line that core h still holds. -/
def pinTrap (addr h : Nat) (pc : Option W64) : TrapInfo := { cls := .pin, x := addr, holder := h, pc := pc }

/-- The trap of an access under RETRY since a clock value on a line, once PINWAIT has passed. -/
def State.pinExpired (s : State) (core ln addr since : Nat) (pc : Option W64) : Option TrapInfo :=
  if s.pinOver since then (s.holder core ln).map fun h => pinTrap addr h pc else none

/-- The trap of the driver whose word, or of whose commands one, has waited for PINWAIT: it names the command's PC. -/
def State.driverPin (s : State) (core : Nat) (g : Workgroup) : Option TrapInfo :=
  match g.drv.block with
  | .pin ln addr since => s.pinExpired core ln addr since none
  | _ => none

def State.commandPin (s : State) (core : Nat) (g : Workgroup) : Option TrapInfo :=
  (g.open_ ++ g.batches.flatMap (·.cmds)).findSome? fun q =>
    match q.pend with
    | .retry r => r.line.bind fun l => s.pinExpired core l.1 l.2 r.since (some r.pc)
    | _ => none

/-- The trap of the warp whose commit, or whose lowest waiting gang, has passed PINWAIT. -/
def State.warpPin (s : State) (core : Nat) (w : Warp) : Option TrapInfo :=
  match w.block with
  | .pin ln addr since => s.pinExpired core ln addr since none
  | _ =>
    (List.range 8).findSome? fun l =>
      w.waits.findSome? fun q =>
        match q.kind with
        | .pin ln addr since =>
          if q.leader == l then s.pinExpired core ln addr since (some (w.gangOf l).pc) else none
        | _ => none

/-- The warp's leg is to commit, so that its trap is no longer deferred (R270). -/
def Warp.committing (w : Warp) : Bool := match w.block with | .pin _ _ _ => true | _ => false

/-- PINWAIT_EXPIRY: the access is not performed. -/
def execPinwaitExpiry (core slot : Nat) (agent : AgentId) (s : State) : Out :=
  match s.wg? core slot with
  | none => .next s
  | some g =>
    if g.halted then .next s
    else
      match agent with
      | .ostler => .next s
      | .driver =>
        match (s.driverPin core g).or (s.commandPin core g) with
        | none => .next s
        | some t => .next (s.raiseTrap core slot 16 t)
      | .warp w =>
        let x := g.warps.getD w default
        match s.warpPin core x with
        | none => .next s
        | some t => .next (if x.committing then s.raiseTrap core slot w t else s.warpTrap core slot w t)

/-! TIMER (R338) -/

/-- The deadline has been reached. -/
def State.timerDue (s : State) (g : Workgroup) : Bool :=
  match g.deadline with
  | some d => d ≤ s.wtime g
  | none => false

/-- TIMER_DEADLINE: a header-only block of CLASS 11, which its ostler must read (R350); the workgroup continues. -/
def execTimerDeadline (core slot : Nat) (s : State) : Out :=
  match s.wg? core slot with
  | none => .next s
  | some g =>
    if s.timerDue g then
      .next (((s.wgBlock core slot (trapHeader 11 16 slot 0 g.lid) []).modWg core slot fun g => { g with deadline := none }).wakeFor core)
    else .next s

/-! Slices of shared strings (R342) -/

/-- The cores of a string. -/
def stringCores (n : Nat) : List Nat := [4 * n, 4 * n + 1, 4 * n + 2, 4 * n + 3]

/-- The launch may use the string, and a workgroup of it could start or resume. -/
def State.launchWork (s : State) (n : Nat) (l : Launch) : Bool :=
  l.endedAs == none && s.eff l.vf l.region.toNat 0 / 2 ^ n % 2 == 1
    && (List.range (l.n s)).any fun c => let st := l.rd s (l.recOff s c) 1; st ≤ 2 || st == 6

/-- The function has work that may use the string: resident or saved workgroups, queued tickets, launches, eligible entries. -/
def State.hasWork (s : State) (n f : Nat) : Bool :=
  !(s.vf f).pause &&
    (((stringCores n).any fun c =>
        (s.core c).resume.any (fun r => r.vf == f) || (s.core c).affq.any (fun a => a.vf == f)
          || (s.core c).slots.any fun g => match g with | some g => g.vf == f | none => false)
    || (s.launches.any fun l => l.vf == f && s.launchWork n l) || (s.admits.any fun a => a.vf == f)
    || ((List.range 16).any fun q =>
        let x := (s.vf f).queue q
        !x.stopped && x.tail != 0 && s.dev f (s.queueVa f q + 16) 8 < x.tail))

/-- TAW, where 0 counts as 1, and TACAP of a function. -/
def State.taw (s : State) (f : Nat) : Nat := max 1 (s.topNat f 200 4)
def State.tacap (s : State) (f : Nat) : Nat := s.topNat f 204 4

/-- A fraction in lowest terms. -/
def fraction (a b : Nat) : Nat × Nat := (a / Nat.gcd a b, b / Nat.gcd a b)

/-- Virtual time after one more slice. -/
def State.vtimeAfter (s : State) (f : Nat) : Nat × Nat :=
  let v := (s.vf f).vtime
  let t := s.taw f
  fraction (v.1 * t + 1024 * v.2) (v.2 * t)

/-- Least virtual time first, lowest f on a tie. -/
def State.leastVtime (s : State) : List Nat → Option Nat
  | [] => none
  | f :: r =>
    match s.leastVtime r with
    | none => some f
    | some g =>
      let a := (s.vf f).vtime
      let b := (s.vf g).vtime
      some (if a.1 * b.2 ≤ b.1 * a.2 then f else g)

/-- Slices of the function among the string's last 50 are fewer than TACAP × 50 / 1,000. -/
def State.belowCap (s : State) (t : StringSt) (f : Nat) : Bool :=
  (t.recent.filter (· == f)).length * 1000 < s.tacap f * 50

/-- The choice among functions with work; `boosted` are those with a boost pending. -/
def State.nextSlice (s : State) (t : StringSt) (work boosted : List Nat) : Option Nat :=
  match work.find? boosted.contains with
  | some f => some f
  | none =>
    match s.leastVtime (work.filter (s.belowCap t)) with
    | some f => some f
    | none => s.leastVtime work

/-- A boundary of a shared string that has not been handled. -/
def State.sliceDue (s : State) (n : Nat) : Bool :=
  s.clock % sliceCycles == 0 && (s.string n).sliceAt != s.clock + 1 && s.shared n

/-- Every workgroup of the outgoing function on the string reaches its deadline. -/
def State.expireSlice (s : State) (n : Nat) (out : Option Nat) : State :=
  match out with
  | none => s
  | some f =>
    (stringCores n).foldl (fun s c =>
      s.modCore c fun co => { co with slots := co.slots.map fun g => g.map fun (g : Workgroup) =>
        if g.vf == f then { g with deadline := some 0 } else g }) s

/-- SLICE_END. A boost is seen where a function had no work at two slice ends in a row and has work at this one (log 32). -/
def execSliceEnd (string : Nat) (s : State) : Out :=
  if !s.sliceDue string then .next s
  else
    let t := s.string string
    let fs := s.functionsOf string
    let work := fs.filter (s.hasWork string)
    let rested (f : Nat) : Nat := ((t.noWork.find? fun p => p.1 == f).map (·.2)).getD 0
    let boosted := ((t.boosts ++ fs.filter fun f => work.contains f && 2 ≤ rested f).filter fs.contains).eraseDups
    let next := s.nextSlice t work boosted
    let noWork := (fs.filter fun f => !work.contains f).map fun f => (f, rested f + 1)
    let s := s.expireSlice string t.slice
    let s := match next with
      | some f => s.modVf f fun v => { v with vtime := s.vtimeAfter f }
      | none => s
    .next (s.modString string fun t =>
      { t with slice := next, recent := (next.getD 64 :: t.recent).take 50, boosts := boosted.filter fun f => some f != next,
               noWork := noWork, sliceAt := s.clock + 1 })

end Sys2Proof.Machine
end

