-- ==== Sys2Proof/Machine/Power.lean ====
section
/-!
DEFINITION. Beats, charge, gating, rails and core loss over time (R256, R262 to R265, R346 to R355, R359).
-/
namespace Sys2Proof.Machine

/-! String beats (R262, R263) -/

/-- Some node stood beyond the present threshold at the last STRIMB update (R262; log 33). -/
def StringSt.imbalanced (t : StringSt) : Bool :=
  [t.node0, t.node1, t.node2].any fun b => (t.imbth : Int) < b.toInt || b.toInt < -(t.imbth : Int)

/-- The budget at the start of the present beat: the cap (R265), then the credit. -/
def StringSt.refilled (t : StringSt) : Nat :=
  let b := min t.budget t.bcap
  if t.beat % t.refill == 0 && b < t.bcap then b + 1 else b

/-- What a beat does: passes start or not, whether it is skipped, whether a credit is spent, whether some core runs ballast. -/
structure BeatPlan where
  start : Bool
  skip  : Bool
  spend : Bool
  ball  : Bool
  deriving DecidableEq, Repr, Inhabited

/-- The first rule that applies; `live` cores are not lost, `ready` of them have a pass ready. A lost core runs ballast passes
without spending credit (R359). -/
def beatPlan (imbalanced : Bool) (budget bcap live ready : Nat) : BeatPlan :=
  if imbalanced then { start := false, skip := true, spend := false, ball := false }
  else if ready == 0 then { start := false, skip := false, spend := false, ball := false }
  else if ready == live then { start := true, skip := false, spend := false, ball := live < 4 && bcap != 0 }
  else if bcap == 0 then { start := true, skip := false, spend := false, ball := false }
  else if budget == 0 then { start := false, skip := true, spend := false, ball := false }
  else { start := true, skip := false, spend := true, ball := true }

/-- A beat of the string falls in this cycle and has not been taken; while the string gates, is gated or wakes, it has none (log 33). -/
def State.beatDue (s : State) (n : Nat) : Bool :=
  s.clock % 2 == 0 && (s.string n).gate == .awake && (s.string n).beatAt != s.clock + 1

/-- STRING_BEAT. -/
def execStringBeat (string : Nat) (s : State) : Out :=
  if !s.beatDue string then .next s
  else
    let t := s.string string
    let live := (stringCores string).filter fun c => !(s.core c).lost
    let ready := live.filter fun c => (s.core c).passes != 0
    let budget := t.refilled
    let p := beatPlan t.imbalanced budget t.bcap live.length ready.length
    let s := if p.start then
        ready.foldl (fun s c => s.modCore c fun co => { co with passes := co.passes - 1, passesRun := co.passesRun + 1, ranPass := true }) s
      else s
    .next (s.modString string fun t =>
      { t with beat := t.beat + 1, beatAt := s.clock + 1, budget := if p.spend then budget - 1 else budget,
               nPasses := t.nPasses + BitVec.ofNat 64 (if p.start then ready.length else 0),
               nBall := t.nBall + (if p.ball then 1 else 0), nSkip := t.nSkip + (if p.skip then 1 else 0) })

/-- An update of STRIMB falls in this cycle: every 64 cycles (R264, R347), at multiples of 64 but 0 (log 33). -/
def State.strimbDue (s : State) (n : Nat) : Bool := s.clock % 64 == 0 && s.clock != 0 && (s.string n).strimbAt != s.clock + 1

/-- What the node sensors of a string measure: free values. -/
def State.nodes (s : State) (n : Nat) : Byte × Byte × Byte :=
  (Config.freeBits 8 s.clock (700 + 3 * n), Config.freeBits 8 s.clock (701 + 3 * n), Config.freeBits 8 s.clock (702 + 3 * n))

/-- STRIMB_UPDATE (R347): the nodes as measured, saturating at ±127, and the budget. -/
def execStrimbUpdate (string : Nat) (node0 node1 node2 : Byte) (s : State) : Out :=
  let sat (b : Byte) : Byte := if b == 0x80 then 0x81 else b
  .next (s.modString string fun t =>
    { t with node0 := sat node0, node1 := sat node1, node2 := sat node2, credit := t.budget, strimbAt := s.clock + 1 })

/-! Gating (R349, R350) -/

/-- Automatic gating is due: allowed, and all four cores idle for 50 µs. -/
def State.autoGateDue (s : State) (n : Nat) : Bool :=
  let t := s.string n
  t.gate == .awake && !t.hold && t.idleSince + 50 * usCycles ≤ s.clock && s.stringIdle n

/-- AUTO_GATE. -/
def execAutoGate (string : Nat) (s : State) : Out := .next (if s.autoGateDue string then s.gateStart string else s)

/-- GATING_SEQUENCE_END: a wake that has arrived meanwhile takes effect. -/
def execGatingSequenceEnd (string : Nat) (s : State) : Out :=
  .next (s.modString string fun t =>
    match t.gate with
    | .gating true => { t with gate := .waking (s.clock + 3 * usCycles) }
    | .gating false => { t with gate := .gated }
    | _ => t)

/-- The wake of the string has taken its 3 µs. -/
def State.wakeDue (s : State) (n : Nat) : Bool :=
  match (s.string n).gate with
  | .waking t => t ≤ s.clock
  | _ => false

/-- WAKE_COMPLETE: beats count from 1, and the budget is BCAP (R262). -/
def execWakeComplete (string : Nat) (s : State) : Out :=
  if !s.wakeDue string then .next s
  else
    let s := (stringCores string).foldl (fun s c => s.modCore c fun co => { co with ranPass := false }) s
    .next (s.modString string fun t => { t with gate := .awake, beat := 1, budget := t.bcap, idleSince := s.clock })

/-! Rails (R346, R351, R352) -/

/-- A window of 1 ms ends in this cycle (R351). -/
def State.windowDue (s : State) : Bool := s.clock % (1000 * usCycles) == 0 && s.clock != 0 && s.windowAt != s.clock + 1

/-- The SRAM rail at the end of a window in which `n` errors were corrected (R351). An uncorrectable error of the same cycle cancels
the fall (R358). -/
def State.sramWindow (s : State) (n : Nat) : State :=
  let r := s.rails.getD 2 Rail.reset
  let p := s.opPoint 2 r.point
  let vmv := p % 65536
  let step := bitsOf p 39 36
  let level := if r.ramp.isSome then r.target else r.level
  let move (v kind : Nat) : State :=
    if v == level then s
    else
      let s := s.railLog kind 2 255 0
      { s with rails := s.rails.set 2 { r with level := v, target := v, ramp := none } }
  if bitsOf p 63 56 < n then move (min (max vmv level) (level + step)) 2
  else if n < bitsOf p 55 48 && vmv + step ≤ level + bitsOf p 47 40 * step && r.hold.isNone && r.errAt != s.clock + 1 then move (level - step) 3
  else s

/-- SRAM_RAIL_WINDOW: the end of a window with so many corrected errors; the next one counts from 0. -/
def execSramRailWindow (corrected : Nat) (s : State) : Out :=
  .next { s.sramWindow corrected with sramCe := 0, windowAt := s.clock + 1 }

/-- The hold has lasted 10 minutes. -/
def State.holdDue (s : State) : Bool :=
  match (s.rails.getD 2 Rail.reset).hold with
  | some t => t ≤ s.clock
  | none => false

/-- RAIL_HOLD_END. -/
def execRailHoldEnd (s : State) : Out :=
  if !s.holdDue then .next s
  else
    let s := s.railLog 4 2 255 0
    .next { s with rails := s.rails.modify 2 fun r => { r with hold := none } }

/-- A ramp has ended. -/
def State.rampDue (s : State) (rail : Nat) : Bool :=
  match (s.rails.getD rail Rail.reset).ramp with
  | some t => t ≤ s.clock
  | none => false

/-- OPERATING_POINT_REACHED. -/
def execOperatingPointReached (rail : Nat) (s : State) : Out :=
  if !s.rampDue rail then .next s
  else .next { s with rails := s.rails.modify rail fun r => { r with level := r.target, ramp := none } }

/-! Core loss (R359) -/

/-- CORE_LOSS: an uncorrectable error of the ostler's state, or a stalled ostler slot. -/
def execCoreLoss (core : Nat) (s : State) : Out := .next (s.loseCore core)

/-! Every cycle (R348, R350, R355) -/

/-- The charge record after a cycle. -/
def chargeNext (r charges : Nat) : Nat := min 65535 (r * 63 / 64 + charges)

/-- MARGIN after a measurement: the least one since reset with the rails at their present levels (R355; log 33). -/
def StringSt.marginNext (t : StringSt) (levels : List Nat) (new : W16) : W16 :=
  match t.marginAt.find? (·.1 == levels) with
  | some q => if q.2.toNat ≤ new.toNat then q.2 else new
  | none => new

/-- A string's record and counters after a cycle. What MARGIN and REPLAY follow, the path monitors measure: free values. -/
def State.tickString (s : State) (n : Nat) (t : StringSt) : StringSt :=
  let levels := s.rails.map (·.level)
  let least := t.marginNext levels (Config.freeBits 16 s.clock (300 + n))
  let r := chargeNext t.charge t.charging
  let off := match t.gate with | .gated => true | .waking _ => true | _ => false
  { t with charge := r, charging := 0, nHigh := t.nHigh + (if s.img.hmark ≤ r then 1 else 0),
           nGated := t.nGated + (if off then 1 else 0), idleSince := if s.stringIdle n then t.idleSince else s.clock + 1,
           margin := least, marginAt := (levels, least) :: t.marginAt.filter (·.1 != levels),
           nReplay := t.nReplay + Config.freeBits 64 s.clock (400 + n) }

/-- WTIME stands while the string of a core is gated (R350). -/
def State.tickCore (s : State) (c : Nat) (co : Core) : Core :=
  match (s.string (stringOf c)).gate with
  | .awake => co
  | .gating _ => co
  | _ => { co with slots := co.slots.map fun g => g.map fun (g : Workgroup) => { g with notCounted := g.notCounted + 1 } }

/-- CHARGE_RECORD_UPDATE: the end of a cycle. -/
def execChargeRecordUpdate (s : State) : Out :=
  .next { s with strings := s.strings.mapIdx (fun n t => s.tickString n t), cores := s.cores.mapIdx (fun c co => s.tickCore c co),
                 clock := s.clock + 1 }

end Sys2Proof.Machine
end

