-- ==== Sys2Proof/Machine/HostLink.lean ====
section
/-!
DEFINITION. Accesses from the host and from Towpath peers (R229, R236, R361, R365), and Towpath flits (R367).
-/
namespace Sys2Proof.Machine

/-! Accesses (R236, R361) -/

/-- The lines of a physical range. -/
def rangeLines (pa n : Nat) : List Nat :=
  if n == 0 then [] else (List.range ((pa + n - 1) / 64 + 1 - pa / 64)).map (pa / 64 + ·)

/-- The range of an access: address and bytes. -/
def accessRange : HostAccess → Nat × Nat
  | .read a n => (a, n)
  | .write a d _ => (a, d.length)
  | .bar .. => (0, 0)
  | .bucket a .. => (a, 1536)

/-- A byte as the host or a peer reads it: unspecified in a ruined frame, and in one that a command in flight changes (R190, R320). -/
def State.outerByte (s : State) (kv : List (Nat × Nat)) (pa : Nat) : Byte :=
  if s.ruinedAt pa then freeByte s.free (2 ^ 51 + pa)
  else if inRanges kv pa then freeByte s.free (2 ^ 26 + pa)
  else s.mem.read pa

/-- The access at L2, after every line dirty in an L1 has been written back. Poisoned data poisons the lines that it writes; other
data clears the poison of the lines that it writes whole (R251, R361). -/
def State.outside (s : State) (x : HostAccess) : State :=
  let r := accessRange x
  let ls := rangeLines r.1 r.2
  let s := ls.foldl (fun (s : State) ln => s.forceWriteBack ln) s
  match x with
  | .read a n =>
    let kv := s.kvRanges
    { s with hostData := (List.range n).map fun i => s.outerByte kv (a + i), hostPoison := ls.any s.poison.contains }
  | .write a d p =>
    let w := s.storeFrames (bytesAt a d)
    let s := w.1.writeL2 a (w.2.map (·.2))
    let hit := if p then ls else ls.filter fun ln => a ≤ 64 * ln && 64 * ln + 64 ≤ a + d.length
    hit.foldl (fun (s : State) ln => s.setPoison ln p) s
  | .bucket a key mode h =>
    if ls.any s.poison.contains then { s with hostData := [], hostPoison := true }
    else
      let r := s.peerBucket a mode h ((List.range 26).map fun i => leNat ((key.drop (8 * i)).take 8))
      { r.1 with hostData := leBytes 8 r.2.1 ++ leBytes 8 (r.2.2.2 + r.2.2.1), hostPoison := false }
  | .bar fn off n => { s.bump with hostData := s.barBytes fn off n, hostPoison := false }

/-- The access reads a BAR, which no peer does. -/
def isBar : HostAccess → Bool
  | .bar .. => true
  | _ => false

/-- The access is a bucket command, which the host does not issue. -/
def isBucket : HostAccess → Bool
  | .bucket .. => true
  | _ => false

/-- HOST_CXL_MEM_ACCESS: HBM only; and the host's reads of BARs (R365; log 62). -/
def execHostCxlMemAccess (x : HostAccess) (s : State) : Out :=
  let r := accessRange x
  .next (if !isBucket x && r.1 + r.2 ≤ Config.hbmBytes then s.outside x else s)

/-- HOST_CXL_CACHE_ACCESS: host memory. -/
def execHostCxlCacheAccess (x : HostAccess) (s : State) : Out :=
  .next (if !isBucket x && Config.hostBase ≤ (accessRange x).1 then s.outside x else s)

/-- TOWPATH_PEER_ACCESS: a one-sided access, or a bucket command, whose result word, status and DATA the peer receives. -/
def execTowpathPeerAccess (x : HostAccess) (s : State) : Out :=
  let r := accessRange x
  .next (if isBar x then s else if r.2 == 0 || (populated r.1 && populated (r.1 + r.2 - 1)) then s.outside x else s)

/-! Flits (R367) -/

def State.modPort (s : State) (p : Nat) (f : Port → Port) : State := { s with ports := s.ports.modify p f }

/-- A flit at the receiver: its answer, or its delivery in sequence order. A flit out of sequence is not delivered. -/
def Port.receive (p : Port) (seq : Nat) (payload : List Byte) (crcOk room : Bool) : Port :=
  if p.down then p
  else if !crcOk then { p with answer := (1, seq) }
  else if !room then { p with answer := (2, seq) }
  else if seq == p.rxSeq then { p with rxSeq := (seq + 1) % 4096, delivered := p.delivered ++ [payload], answer := (0, seq) }
  else p

/-- FLIT_RECEIVE. -/
def execFlitReceive (port seq : Nat) (payload : List Byte) (crcOk room : Bool) (s : State) : Out :=
  .next (s.modPort port fun p => p.receive seq payload crcOk room)

/-- Flits of the buffer from a sequence number on, in order. -/
def Port.from' (p : Port) (seq : Nat) : List Nat := (p.buffer.map (·.1)).dropWhile (· != seq)

/-- A replay that begins with a flit; the sixteenth of one flit takes the port down, which the sender logs. -/
def Port.replay (p : Port) (clock seq : Nat) (flits : List Nat) : Port :=
  if p.down || flits.isEmpty then p
  else
    let n := if p.replaying == seq then p.replays + 1 else 1
    { p with replaying := seq, replays := n, down := 16 ≤ n, resent := if 16 ≤ n then p.resent else p.resent ++ flits,
             downLog := if 16 ≤ n then p.downLog ++ [clock] else p.downLog }

/-- NAK_RECEIVE: replays from the flit, in order. -/
def execNakReceive (port seq : Nat) (s : State) : Out := .next (s.modPort port fun p => p.replay s.clock seq (p.from' seq))

/-- FLIT_RETRY_TIMER: replays the one flit. -/
def execFlitRetryTimer (port seq : Nat) (s : State) : Out :=
  .next (s.modPort port fun p => p.replay s.clock seq ((p.buffer.map (·.1)).filter (· == seq)))

/-! Time-outs (R188, R189, R367) -/

/-- A command of function f that a peer has not answered within TOWTO, or that has no way left to it (R367). -/
def State.towOver (s : State) (f : Nat) (q : Cmd) : Bool :=
  match q.pend with
  | .peer since => since + s.img.towto * usCycles ≤ s.clock || (s.portFor f).isNone
  | _ => false

/-- A workgroup has such a command. -/
def State.towDue (s : State) (g : Workgroup) : Bool := (g.open_ ++ g.batches.flatMap (·.cmds)).any (s.towOver g.vf)

/-- TOWPATH_TIMEOUT: status 7; DATA keeps the index of a broadcast's peer (R194, R327). -/
def execTowpathTimeout (core slot : Nat) (s : State) : Out :=
  .next (s.modWg core slot fun g =>
    let fix (q : Cmd) : Cmd := if s.towOver g.vf q then { q with status := 7, pend := .none } else q
    { g with open_ := g.open_.map fix, batches := g.batches.map fun b => { b with cmds := b.cmds.map fix } })

end Sys2Proof.Machine
end

