-- ==== Sys2Proof/Machine/Integer.lean ====
section
/-!
DEFINITION. `nop` (R74) and the integer and logic instructions of the warp stream (R98 to R100).
-/
namespace Sys2Proof.Machine

/-- Immediates of a typed integer source (R69). -/
def tyImm (o : Op3) : Imm := if o.typ == 1 then .zx else .sx

/-- Two typed sources, an exact result, fitted to the type. -/
def intOp (o : Op3) (cls : Nat) (sat : Bool) (f : Int → Int → Int) (s : State) : Out :=
  laneOp o cls (some (tyImm o)) (some (tyImm o)) false true
    (fun a b _ => fit32 o.typ sat (f (intOf o.typ a) (intOf o.typ b))) s

/-- Two 32-bit sources and a bitwise result; `ib` reads B's immediate. -/
def bitOp (o : Op3) (cls : Nat) (ib : Imm) (f : W32 → W32 → W32) (s : State) : Out :=
  laneOp o cls (some .sx) (some ib) false true (fun a b _ => (f a b, 0)) s

/-- One 32-bit source. -/
def bitOp1 (o : Op3) (cls : Nat) (f : W32 → W32) (s : State) : Out :=
  laneOp o cls (some .sx) none false true (fun a _ _ => (f a, 0)) s

/-- `nop` changes nothing but the candidate lanes' place (R74). -/
def execNop (o : Op3) (s : State) : Out := warpWord o.ctl (fun it => .next (it.finish it.s o.ctl { cls := 0 })) s

def execIadd (o : Op3) (s : State) : Out := intOp o 1 o.sat (· + ·) s
def execIsub (o : Op3) (s : State) : Out := intOp o 1 o.sat (· - ·) s
def execImul (o : Op3) (s : State) : Out := intOp o 3 o.sat (· * ·) s
def execImulh (o : Op3) (s : State) : Out := intOp o 3 false (fun a b => a * b / 2 ^ 32) s
def execImad (o : Op3) (s : State) : Out :=
  laneOp o 3 (some (tyImm o)) (some (tyImm o)) true true
    (fun a b c => fit32 o.typ o.sat (intOf o.typ a * intOf o.typ b + intOf o.typ c)) s
def execImin (o : Op3) (s : State) : Out := intOp o 1 false min s
def execImax (o : Op3) (s : State) : Out := intOp o 1 false max s
def execIabs (o : Op3) (s : State) : Out :=
  laneOp o 1 (some .sx) none false true (fun a _ _ => fit32 0 o.sat a.toInt.natAbs) s
def execShl (o : Op3) (s : State) : Out := bitOp o 2 .zx (fun a b => if 32 ≤ b.toNat then 0 else a <<< b.toNat) s
def execShr (o : Op3) (s : State) : Out := bitOp o 2 .zx (fun a b => if 32 ≤ b.toNat then 0 else a >>> b.toNat) s
def execSar (o : Op3) (s : State) : Out := bitOp o 2 .zx (fun a b => a.sshiftRight (min b.toNat 31)) s
def execAnd (o : Op3) (s : State) : Out := bitOp o 1 .sx (· &&& ·) s
def execOr (o : Op3) (s : State) : Out := bitOp o 1 .sx (· ||| ·) s
def execXor (o : Op3) (s : State) : Out := bitOp o 1 .sx (· ^^^ ·) s

/-- A bit by bit function of three words with its truth table (R99). -/
def lut3 (lut : Byte) (a b c : W32) : W32 :=
  maskOf fun i => lut.getLsbD ((if laneBit a i then 1 else 0) + (if laneBit b i then 2 else 0) + (if laneBit c i then 4 else 0))

def execLut3 (o : Op3) (s : State) : Out :=
  laneOp o 1 (some .sx) (some .sx) true true (fun a b c => (lut3 o.var a b c, 0)) s

/-- Leading zero bits of 32. -/
def clz32 (a : W32) : Nat := if a == 0 then 32 else 31 - Nat.log2 a.toNat

def execPopc (o : Op3) (s : State) : Out := bitOp1 o 2 (fun a => BitVec.ofNat 32 (popMask a)) s
def execClz (o : Op3) (s : State) : Out := bitOp1 o 2 (fun a => BitVec.ofNat 32 (clz32 a)) s
def execBrev (o : Op3) (s : State) : Out := bitOp1 o 2 (fun a => maskOf fun i => laneBit a (31 - i)) s

/-- Position and length of a bit field (R99). -/
def fieldOf (b : W32) : Nat × Nat :=
  let p := min (b.toNat % 256) 32
  (p, min (b.toNat / 256 % 256) (32 - p))

/-- `bfx` (R99). -/
def bfxF (typ : Nat) (a b : W32) : W32 :=
  let p := (fieldOf b).1
  let l := (fieldOf b).2
  if l == 0 then 0 else
    let f := a.toNat / 2 ^ p % 2 ^ l
    if typ == 0 && 2 ^ (l - 1) ≤ f then BitVec.ofInt 32 ((f : Int) - 2 ^ l) else BitVec.ofNat 32 f

/-- `bfi` (R99). -/
def bfiF (a b c : W32) : W32 :=
  let p := (fieldOf b).1
  let m : W32 := BitVec.ofNat 32 ((2 ^ (fieldOf b).2 - 1) * 2 ^ p)
  (c &&& ~~~m) ||| (BitVec.ofNat 32 (a.toNat * 2 ^ p) &&& m)

def execBfx (o : Op3) (s : State) : Out :=
  laneOp o 2 (some (tyImm o)) (some .zx) false true (fun a b _ => (bfxF o.typ a b, 0)) s
def execBfi (o : Op3) (s : State) : Out := laneOp o 2 (some .sx) (some .zx) true true (fun a b c => (bfiF a b c, 0)) s

def execIsetp (o : Op3) (s : State) : Out :=
  predOp o 1 (tyImm o) (tyImm o) (fun a b => condInt o.cond (intOf o.typ a) (intOf o.typ b)) s

/-- `sel` (R100): the lane's predicate chooses between a and b. -/
def execSel (o : Op3) (s : State) : Out :=
  warpWord o.ctl (fun it =>
    let q : Opnd := .pred (BitVec.ofNat 3 (o.xt.toNat % 8))
    match it.stallTrap [(1, o.a, 1), (2, o.b, 1)] [(0, o.d), (1, o.a), (2, o.b)] q.predNo with
    | some t => it.trap t
    | none =>
      match it.regTrap [(0, o.d, 1), (1, o.a, 1), (2, o.b, 1)] with
      | some t => it.trap t
      | none =>
        let res (L : Nat) : W32 := if it.pred 3 q L != o.xtBit 3 then it.src 1 o.a .sx 0 L else it.src 2 o.b .sx 0 L
        .next (it.finish it.s o.ctl { upd := it.putD o.d 0 res, cls := 1, keys := it.keysD o.d 1 })) s

/-- Byte k of a word, signed. -/
def sbyte (x : W32) (k : Nat) : Int := (x.extractLsb' (8 * k) 8).toInt

def execIdot4 (o : Op3) (s : State) : Out :=
  laneOp o 4 (some .i8) (some .i8) true true
    (fun a b c => fit32 0 o.sat (c.toInt + ((List.range 4).map fun k => sbyte a k * sbyte b k).sum)) s

end Sys2Proof.Machine
end

