-- ==== Sys2Proof/Machine/Dispatch.lean ====
section
/-!
DEFINITION. One arm per instruction and event: a direct call of its meaning.
-/
namespace Sys2Proof.Machine

def exec (i : Instr) (s : State) : Host.Outcome State Fault Refusal :=
  match i with
  | .nop o => Sys2Proof.Machine.execNop o s
  | .iadd o => Sys2Proof.Machine.execIadd o s
  | .isub o => Sys2Proof.Machine.execIsub o s
  | .imul o => Sys2Proof.Machine.execImul o s
  | .imulh o => Sys2Proof.Machine.execImulh o s
  | .imad o => Sys2Proof.Machine.execImad o s
  | .imin o => Sys2Proof.Machine.execImin o s
  | .imax o => Sys2Proof.Machine.execImax o s
  | .iabs o => Sys2Proof.Machine.execIabs o s
  | .shl o => Sys2Proof.Machine.execShl o s
  | .shr o => Sys2Proof.Machine.execShr o s
  | .sar o => Sys2Proof.Machine.execSar o s
  | .and o => Sys2Proof.Machine.execAnd o s
  | .or o => Sys2Proof.Machine.execOr o s
  | .xor o => Sys2Proof.Machine.execXor o s
  | .lut3 o => Sys2Proof.Machine.execLut3 o s
  | .popc o => Sys2Proof.Machine.execPopc o s
  | .clz o => Sys2Proof.Machine.execClz o s
  | .brev o => Sys2Proof.Machine.execBrev o s
  | .bfx o => Sys2Proof.Machine.execBfx o s
  | .bfi o => Sys2Proof.Machine.execBfi o s
  | .isetp o => Sys2Proof.Machine.execIsetp o s
  | .sel o => Sys2Proof.Machine.execSel o s
  | .idot4 o => Sys2Proof.Machine.execIdot4 o s
  | .fadd o => Sys2Proof.Machine.execFadd o s
  | .fsub o => Sys2Proof.Machine.execFsub o s
  | .fmul o => Sys2Proof.Machine.execFmul o s
  | .fma o => Sys2Proof.Machine.execFma o s
  | .fmin o => Sys2Proof.Machine.execFmin o s
  | .fmax o => Sys2Proof.Machine.execFmax o s
  | .fsetp o => Sys2Proof.Machine.execFsetp o s
  | .fclass o => Sys2Proof.Machine.execFclass o s
  | .frnd o => Sys2Proof.Machine.execFrnd o s
  | .frcp o => Sys2Proof.Machine.execFrcp o s
  | .frsq o => Sys2Proof.Machine.execFrsq o s
  | .fsqrt o => Sys2Proof.Machine.execFsqrt o s
  | .fexp2 o => Sys2Proof.Machine.execFexp2 o s
  | .flog2 o => Sys2Proof.Machine.execFlog2 o s
  | .fsin o => Sys2Proof.Machine.execFsin o s
  | .fcos o => Sys2Proof.Machine.execFcos o s
  | .fscale o => Sys2Proof.Machine.execFscale o s
  | .hadd2 o => Sys2Proof.Machine.execHadd2 o s
  | .hmul2 o => Sys2Proof.Machine.execHmul2 o s
  | .hfma2 o => Sys2Proof.Machine.execHfma2 o s
  | .cvt o => Sys2Proof.Machine.execCvt o s
  | .qnt48 o => Sys2Proof.Machine.execQnt48 o s
  | .mov o => Sys2Proof.Machine.execMov o s
  | .movi o => Sys2Proof.Machine.execMovi o s
  | .sread o => Sys2Proof.Machine.execSread o s
  | .sreadClr o => Sys2Proof.Machine.execSreadClr o s
  | .vote o => Sys2Proof.Machine.execVote o s
  | .wred o => Sys2Proof.Machine.execWred o s
  | .wscan o => Sys2Proof.Machine.execWscan o s
  | .plop o => Sys2Proof.Machine.execPlop o s
  | .xset o => Sys2Proof.Machine.execXset o s
  | .xwin o => Sys2Proof.Machine.execXwin o s
  | .xadd o => Sys2Proof.Machine.execXadd o s
  | .rep o => Sys2Proof.Machine.execRep o s
  | .dqpop o => Sys2Proof.Machine.execDqpop o s
  | .ld o => Sys2Proof.Machine.execLd o s
  | .st o => Sys2Proof.Machine.execSt o s
  | .lds o => Sys2Proof.Machine.execLds o s
  | .sts o => Sys2Proof.Machine.execSts o s
  | .atom o => Sys2Proof.Machine.execAtom o s
  | .atoms o => Sys2Proof.Machine.execAtoms o s
  | .red o => Sys2Proof.Machine.execRed o s
  | .fence o => Sys2Proof.Machine.execFence o s
  | .fencex o => Sys2Proof.Machine.execFencex o s
  | .pref o => Sys2Proof.Machine.execPref o s
  | .cctl o => Sys2Proof.Machine.execCctl o s
  | .bra o => Sys2Proof.Machine.execBra o s
  | .bru o => Sys2Proof.Machine.execBru o s
  | .brx o => Sys2Proof.Machine.execBrx o s
  | .call o => Sys2Proof.Machine.execCall o s
  | .ret o => Sys2Proof.Machine.execRet o s
  | .exit o => Sys2Proof.Machine.execExit o s
  | .hitch o => Sys2Proof.Machine.execHitch o s
  | .bar o => Sys2Proof.Machine.execBar o s
  | .barArv o => Sys2Proof.Machine.execBarArv o s
  | .role o => Sys2Proof.Machine.execRole o s
  | .roleGrant core slot warp => Sys2Proof.Machine.execRoleGrant core slot warp s
  | .fbp o => Sys2Proof.Machine.execFbp o s
  | .yield o => Sys2Proof.Machine.execYield o s
  | .trap o => Sys2Proof.Machine.execTrap o s
  | .racc o => Sys2Proof.Machine.execRacc o s
  | .rfirst o => Sys2Proof.Machine.execRfirst o s
  | .rsigGuessed o => Sys2Proof.Machine.execRsigGuessed o s
  | .rsigExit o => Sys2Proof.Machine.execRsigExit o s
  | .rjoin o => Sys2Proof.Machine.execRjoin o s
  | .dadd o => Sys2Proof.Machine.execDadd o s
  | .dsub o => Sys2Proof.Machine.execDsub o s
  | .dmul o => Sys2Proof.Machine.execDmul o s
  | .dmulh o => Sys2Proof.Machine.execDmulh o s
  | .ddiv o => Sys2Proof.Machine.execDdiv o s
  | .dand o => Sys2Proof.Machine.execDand o s
  | .dor o => Sys2Proof.Machine.execDor o s
  | .dxor o => Sys2Proof.Machine.execDxor o s
  | .dshl o => Sys2Proof.Machine.execDshl o s
  | .dshr o => Sys2Proof.Machine.execDshr o s
  | .dsar o => Sys2Proof.Machine.execDsar o s
  | .dset o => Sys2Proof.Machine.execDset o s
  | .dsel o => Sys2Proof.Machine.execDsel o s
  | .dmovi o => Sys2Proof.Machine.execDmovi o s
  | .dld o => Sys2Proof.Machine.execDld o s
  | .dst o => Sys2Proof.Machine.execDst o s
  | .datom o => Sys2Proof.Machine.execDatom o s
  | .dlds o => Sys2Proof.Machine.execDlds o s
  | .dsts o => Sys2Proof.Machine.execDsts o s
  | .dbra o => Sys2Proof.Machine.execDbra o s
  | .dcall o => Sys2Proof.Machine.execDcall o s
  | .dret o => Sys2Proof.Machine.execDret o s
  | .dend o => Sys2Proof.Machine.execDend o s
  | .dsread o => Sys2Proof.Machine.execDsread o s
  | .dfence o => Sys2Proof.Machine.execDfence o s
  | .dqpush o => Sys2Proof.Machine.execDqpush o s
  | .dbar o => Sys2Proof.Machine.execDbar o s
  | .dbarArv o => Sys2Proof.Machine.execDbarArv o s
  | .dhash o => Sys2Proof.Machine.execDhash o s
  | .dbit o => Sys2Proof.Machine.execDbit o s
  | .mma o => Sys2Proof.Machine.execMma o s
  | .mmag o => Sys2Proof.Machine.execMmag o s
  | .scacc o => Sys2Proof.Machine.execScacc o s
  | .drain o => Sys2Proof.Machine.execDrain o s
  | .aclr o => Sys2Proof.Machine.execAclr o s
  | .ald o => Sys2Proof.Machine.execAld o s
  | .ast o => Sys2Proof.Machine.execAst o s
  | .attn o => Sys2Proof.Machine.execAttn o s
  | .atmerge o => Sys2Proof.Machine.execAtmerge o s
  | .atnorm o => Sys2Proof.Machine.execAtnorm o s
  | .copy o => Sys2Proof.Machine.execCopy o s
  | .copyx o => Sys2Proof.Machine.execCopyx o s
  | .bfence o => Sys2Proof.Machine.execBfence o s
  | .bwait o => Sys2Proof.Machine.execBwait o s
  | .evpop o => Sys2Proof.Machine.execEvpop o s
  | .batchCompletion core slot batch => Sys2Proof.Machine.execBatchCompletion core slot batch s
  | .launch o => Sys2Proof.Machine.execLaunch o s
  | .kvfindLook o => Sys2Proof.Machine.execKvfindLook o s
  | .kvfindRef o => Sys2Proof.Machine.execKvfindRef o s
  | .kvfindUnref o => Sys2Proof.Machine.execKvfindUnref o s
  | .kvins o => Sys2Proof.Machine.execKvins o s
  | .kvapp o => Sys2Proof.Machine.execKvapp o s
  | .kvtrim o => Sys2Proof.Machine.execKvtrim o s
  | .kvown o => Sys2Proof.Machine.execKvown o s
  | .kvpull o => Sys2Proof.Machine.execKvpull o s
  | .wsref o => Sys2Proof.Machine.execWsref o s
  | .wsswap o => Sys2Proof.Machine.execWsswap o s
  | .wsbcast o => Sys2Proof.Machine.execWsbcast o s
  | .wsbcastReceive vf entry version data => Sys2Proof.Machine.execWsbcastReceive vf entry version data s
  | .wspull o => Sys2Proof.Machine.execWspull o s
  | .objnew o => Sys2Proof.Machine.execObjnew o s
  | .objopen o => Sys2Proof.Machine.execObjopen o s
  | .objhand o => Sys2Proof.Machine.execObjhand o s
  | .objdrop o => Sys2Proof.Machine.execObjdrop o s
  | .objsync o => Sys2Proof.Machine.execObjsync o s
  | .relay o => Sys2Proof.Machine.execRelay o s
  | .relayBegin core slot => Sys2Proof.Machine.execRelayBegin core slot s
  | .rwait o => Sys2Proof.Machine.execRwait o s
  | .swrite o => Sys2Proof.Machine.execSwrite o s
  | .rtt o => Sys2Proof.Machine.execRtt o s
  | .ctxsave o => Sys2Proof.Machine.execCtxsave o s
  | .ctxload o => Sys2Proof.Machine.execCtxload o s
  | .tlbinvPg o => Sys2Proof.Machine.execTlbinvPg o s
  | .tlbinvVf o => Sys2Proof.Machine.execTlbinvVf o s
  | .tlbinvAll o => Sys2Proof.Machine.execTlbinvAll o s
  | .l2opWb o => Sys2Proof.Machine.execL2opWb o s
  | .l2opInv o => Sys2Proof.Machine.execL2opInv o s
  | .l2opWbi o => Sys2Proof.Machine.execL2opWbi o s
  | .l2opVfwb o => Sys2Proof.Machine.execL2opVfwb o s
  | .halt o => Sys2Proof.Machine.execHalt o s
  | .qclaim o => Sys2Proof.Machine.execQclaim o s
  | .wgstart o => Sys2Proof.Machine.execWgstart o s
  | .scrub o => Sys2Proof.Machine.execScrub o s
  | .draint o => Sys2Proof.Machine.execDraint o s
  | .pwrset o => Sys2Proof.Machine.execPwrset o s
  | .strset o => Sys2Proof.Machine.execStrset o s
  | .gateNow o => Sys2Proof.Machine.execGateNow o s
  | .gateWake o => Sys2Proof.Machine.execGateWake o s
  | .gateHold o => Sys2Proof.Machine.execGateHold o s
  | .gateAuto o => Sys2Proof.Machine.execGateAuto o s
  | .rtcallMeasure o => Sys2Proof.Machine.execRtcallMeasure o s
  | .rtcallVerify o => Sys2Proof.Machine.execRtcallVerify o s
  | .rtcallQuote o => Sys2Proof.Machine.execRtcallQuote o s
  | .rtcallMarginSignature o => Sys2Proof.Machine.execRtcallMarginSignature o s
  | .warpPromotion core slot warp => Sys2Proof.Machine.execWarpPromotion core slot warp s
  | .pinwaitExpiry core slot agent => Sys2Proof.Machine.execPinwaitExpiry core slot agent s
  | .parkedRestoreTimeout core index => Sys2Proof.Machine.execParkedRestoreTimeout core index s
  | .timerDeadline core slot => Sys2Proof.Machine.execTimerDeadline core slot s
  | .sliceEnd string => Sys2Proof.Machine.execSliceEnd string s
  | .stringBeat string => Sys2Proof.Machine.execStringBeat string s
  | .strimbUpdate string node0 node1 node2 => Sys2Proof.Machine.execStrimbUpdate string node0 node1 node2 s
  | .autoGate string => Sys2Proof.Machine.execAutoGate string s
  | .gatingSequenceEnd string => Sys2Proof.Machine.execGatingSequenceEnd string s
  | .wakeComplete string => Sys2Proof.Machine.execWakeComplete string s
  | .sramRailWindow corrected => Sys2Proof.Machine.execSramRailWindow corrected s
  | .railHoldEnd => Sys2Proof.Machine.execRailHoldEnd s
  | .coreLoss core => Sys2Proof.Machine.execCoreLoss core s
  | .affinitySteal queue index thief => Sys2Proof.Machine.execAffinitySteal queue index thief s
  | .queueNotify vf q t => Sys2Proof.Machine.execQueueNotify vf q t s
  | .vfPauseWrite vf pause => Sys2Proof.Machine.execVfPauseWrite vf pause s
  | .vfTimeWrite vf v => Sys2Proof.Machine.execVfTimeWrite vf v s
  | .vfQtailWrite vf q t => Sys2Proof.Machine.execVfQtailWrite vf q t s
  | .registerWrite fn off v => Sys2Proof.Machine.execRegisterWrite fn off v s
  | .flrRequest vf => Sys2Proof.Machine.execFlrRequest vf s
  | .hostCxlMemAccess x => Sys2Proof.Machine.execHostCxlMemAccess x s
  | .hostCxlCacheAccess x => Sys2Proof.Machine.execHostCxlCacheAccess x s
  | .towpathPeerAccess x => Sys2Proof.Machine.execTowpathPeerAccess x s
  | .flitReceive port seq payload crcOk room => Sys2Proof.Machine.execFlitReceive port seq payload crcOk room s
  | .nakReceive port seq => Sys2Proof.Machine.execNakReceive port seq s
  | .flitRetryTimer port seq => Sys2Proof.Machine.execFlitRetryTimer port seq s
  | .towpathTimeout core slot => Sys2Proof.Machine.execTowpathTimeout core slot s
  | .bringUp => Sys2Proof.Machine.execBringUp s
  | .chargeRecordUpdate => Sys2Proof.Machine.execChargeRecordUpdate s
  | .operatingPointReached rail => Sys2Proof.Machine.execOperatingPointReached rail s
  | .regionTeardown vf rcb => Sys2Proof.Machine.execRegionTeardown vf rcb s
  | .stringLeavesRegion string vf rcb => Sys2Proof.Machine.execStringLeavesRegion string vf rcb s

end Sys2Proof.Machine
end

