-- ==== Sys2Proof/Machine/Fetch.lean ====
section
/-!
DEFINITION. Fetching a word and its checks (R62, R80, R81, R116), and which agent issues next (R204, R210 to R215).
-/
namespace Sys2Proof.Machine

/-! Fetching (R81) -/

/-- A fetch: the word and the translations that it left, an address that is not mapped for execution, or an absent page. -/
inductive Fetched where
  | word (w : W96) (s : State)
  | addr (va : Nat)
  | tran (page : Nat)

/-- Twelve bytes of memory as a word (R62). -/
def wordAt (m : Memory) (at_ : Nat → Nat) : W96 := BitVec.ofNat 96 (leNat ((List.range 12).map fun i => m.read (at_ i)))

/-- Fetches a function's word through core c's translations: a byte that is not mapped for execution decides before an absent page,
and of two pages the lower one first (R81). -/
def State.fetchVf (s : State) (c f va : Nat) : Fetched :=
  let up := (va + 11) % 2 ^ 64 / 65536 * 65536
  let cross : Bool := 65524 < va % 65536
  match s.translate c f va .fetch with
  | .error .addr => .addr va
  | .error .tran =>
    match cross, s.translate c f up .fetch with
    | true, .error .addr => .addr up
    | _, _ => .tran (va / 65536 * 65536)
  | .ok pa =>
    let s' := s.tlbFill c f va
    if !cross then .word (wordAt s.mem (pa + ·)) s'
    else
      match s.translate c f up .fetch with
      | .error .addr => .addr up
      | .error .tran => .tran up
      | .ok pb =>
        let n := 65536 - va % 65536
        .word (wordAt s.mem fun i => if i < n then pa + i else pb + (i - n)) (s'.tlbFill c f up)

/-- Fetches an ostler's word from physical memory (log 5). -/
def State.fetchPhys (s : State) (va : Nat) : Fetched :=
  if populated va && populated (va + 11) then .word (wordAt s.mem (va + ·)) s else .addr va

/-! The checks of a word (R80) -/

/-- Steps 1 to 4 for a warp stream or a driver-space stream. -/
def checkWord (w : W96) (warp priv : Bool) : Except TrapClass Instr :=
  let op := (w.extractLsb' 0 8).toNat
  if !opDefined op || opIsWarp op != warp then .error .ill
  else if opIsSystem op && !priv then .error .priv
  else
    match decode w with
    | .ok i => .ok i
    | .error _ => .error .ill

/-- The operand field that starts at a bit is register direct (R65). -/
def fieldDirect (w : W96) (lo : Nat) : Bool := w.extractLsb' (lo + 16) 2 == 0

/-- The word may be the subject of a `rep` with a mask (R116): a field of all zeros counts as register direct, also where the word does
not use it (log 57). -/
def repSubject (w : W96) (mask : BitVec 3) : Bool :=
  let op := (w.extractLsb' 0 8).toNat
  (op ≤ 0x49 || (0x50 ≤ op && op ≤ 0x56))
    && (!mask.getLsbD 0 || fieldDirect w 20)
    && (!mask.getLsbD 1 || (!isLongOp op && fieldDirect w 38))
    && (!mask.getLsbD 2 || (!isLongOp op && fieldDirect w 56))

/-! Registers of a word (R83) -/

/-- What an operand of `k` registers names: for an indexed one the index register, its window, and the registers of every lane. -/
def opndKeys (x : Warp) (k : Nat) (o : Opnd) : List SbKey :=
  if k == 0 then [] else
  match o with
  | .vreg n _ => (List.range k).map fun j => .v (n.toNat + j)
  | .vidx xn off _ =>
    let ns := ((List.range 32).map fun L => (((x.x.getD xn.toNat []).getD L 0).toNat : Int) + off.toInt).eraseDups
    .x xn.toNat :: .win xn.toNat :: ns.flatMap fun n => (List.range k).map fun (j : Nat) => .v (n + (j : Int)).toNat
  | .pred n => if n == 7 then [] else [.p n.toNat]
  | .xreg n => [.x n.toNat, .win n.toNat]
  | _ => []

/-- How many registers each of D, A and B of a warp word names; a meeting word names none before its meeting (R75 to R78, R96, R136). -/
def fieldRegs (op : Nat) (o : Op3) : Nat × Nat × Nat :=
  if op == 0 || op == 0x4A then (0, 0, 0)
  else if op == 0x35 then (1, 2, 0)
  else if [0x08, 0x10, 0x11, 0x12, 0x34, 0x40, 0x43, 0x44, 0x45, 0x47, 0x49].contains op || (0x27 ≤ op && op ≤ 0x2F) then (1, 1, 0)
  else if op ≤ 0x33 || op == 0x46 then (1, 1, 1)
  else if op == 0x42 || op == 0x48 then (1, 0, 0)
  else if op == 0x4B then (2, 0, 0)
  else if op == 0x50 || op == 0x51 then (fmtRegs o.typ, 2, 1)
  else if op == 0x52 || op == 0x53 then (fmtRegs o.typ, 1, 1)
  else if op == 0x54 || op == 0x56 then (atomRegs o.aop o.typ, 2, 1)
  else if op == 0x55 then (atomRegs o.aop o.typ, 1, 1)
  else if op == 0x59 || op == 0x5A then (0, 2, 1)
  else if op == 0x62 || op == 0x64 then (0, 2, 0)
  else (0, 0, 0)

/-- The registers that a warp word reads or writes: guard, operands, the predicate of `sel`, the link pair of `call`. -/
def wordKeys (x : Warp) (w : W96) : List SbKey :=
  let op := (w.extractLsb' 0 8).toNat
  let g := (w.extractLsb' 16 3).toNat
  (if g == 7 then [] else [.p g]) ++
    if isLongOp op then
      match unpackL w with
      | some o => if op == 0x41 then opndKeys x 1 o.d
          else if op == 0x63 then [.v o.xt.toNat, .v (o.xt.toNat + 1)] else []
      | none => []
    else
      match unpack3 w with
      | some o =>
        let n := fieldRegs op o
        opndKeys x n.1 o.d ++ opndKeys x n.2.1 o.a ++ opndKeys x n.2.2 o.b
          ++ (if op == 0x16 && o.xt.toNat % 8 != 7 then [.p (o.xt.toNat % 8)] else [])
      | none => []

/-- The leader of another gang whose word waits, under RETRY or on the decision queue, and reads or writes a register that the word of
a gang reads or writes: that word waits until it has gone on (R83, R97, R229). -/
def State.lockOf (s : State) (c : Nat) (g : Workgroup) (x : Warp) (gang : Gang) : Option Nat :=
  if x.waits.isEmpty then none else
  match s.fetchVf c g.vf gang.pc.toNat with
  | .word wd _ =>
    (x.waits.find? fun q => q.leader != gang.leader && (match q.kind with | .lock _ => false | _ => true) &&
      (match s.fetchVf c g.vf (x.gangOf q.leader).pc.toNat with
       | .word v _ => (wordKeys x v).any (wordKeys x wd).contains
       | _ => false)).map (·.leader)
  | _ => none

/-! What a step does -/

/-- One step: a word or an event is executed in a state, or the state itself follows. -/
inductive Act where
  | run (i : Instr) (s : State)
  | done (s : State)

/-- Warp w of slot k issues the word at its PC. -/
def State.issueWarp (s : State) (c k w : Nat) (g : Workgroup) (x : Warp) (gang : Gang) : Act :=
  let s : State := { s with cur := { core := c, slot := k, agent := .warp w } }
  match s.fetchVf c g.vf gang.pc.toNat with
  | .addr va => .done (s.warpTrap c k w { cls := .addr, x := va })
  | .tran page => .done (s.park c k w page)
  | .word wd s =>
    match checkWord wd true false with
    | .error e => .done (s.warpTrap c k w { cls := e })
    | .ok i =>
      if x.rep.active && !repSubject wd x.rep.mask then .done (s.warpTrap c k w { cls := .ill }) else .run i s

/-- The driver of slot k issues. -/
def State.issueDriver (s : State) (c k : Nat) (g : Workgroup) : Act :=
  let s : State := { s with cur := { core := c, slot := k, agent := .driver } }
  match s.fetchVf c g.vf g.drv.pc.toNat with
  | .addr va => .done (s.raiseTrap c k 16 { cls := .addr, x := va })
  | .tran page => .done (s.modDrv c k fun d => { d with block := .tran g.vf page })
  | .word wd s =>
    match checkWord wd false g.drv.priv with
    | .error e => .done (s.raiseTrap c k 16 { cls := e })
    | .ok i => .run i s

/-- The ostler of core c issues; a fault of its words loses the core (R359). -/
def State.issueOstler (s : State) (c : Nat) : Act :=
  let s : State := { s with cur := { core := c, slot := 8, agent := .ostler } }
  match s.fetchPhys (s.core c).ostler.pc.toNat with
  | .addr _ => .done (s.ostlerTrap c .addr)
  | .tran _ => .done (s.ostlerTrap c .tran)
  | .word wd s =>
    match checkWord wd false true with
    | .error e => .done (s.ostlerTrap c e)
    | .ok i => .run i s

/-! Readiness (R211, R215) -/

/-- The driver can issue: its gap has elapsed, and what it waits for has come. -/
def State.driverReady (s : State) (c : Nat) (g : Workgroup) : Bool :=
  (!g.halted || g.drv.block == .saving) && !g.drv.ended && g.drv.readyAt ≤ s.clock && (g.trapped 16).isNone
    && !(s.vf g.vf).heldBack &&
    (match g.drv.block with
     | .none => true
     | .saving => true
     | .bfence n => !g.fenceWaits n
     | .bwait n => !g.inflight n || (s.yieldOn c g [n]).isSome
     | .evpop => !g.evq.isEmpty || g.flying.isEmpty || (s.yieldOn c g g.flying).isSome
     | .dend => g.quiet (s.core c).passesRun
     | .rwait => g.relay.isNone
     | .pin ln _ _ => s.lineFree c ln
     | _ => false)

/-- The ostler can issue. -/
def State.ostlerReady (s : State) (c : Nat) : Bool :=
  let co := s.core c
  co.ostler.started && !co.lost && co.ostler.readyAt ≤ s.clock

/-- The core issues words: not lost, its string awake. -/
def State.coreRuns (s : State) (c : Nat) : Bool := !(s.core c).lost && (s.string (stringOf c)).gate == .awake

/-! The scheduler's choice (R212, R213) -/

/-- A ready warp: slot, index, the warp, and what its next word charges. -/
structure Cand where
  slot   : Nat
  w      : Nat
  wp     : Warp
  charge : Nat

/-- The class by which an opcode is charged (R348). -/
def chargeClass (op : Nat) : Nat :=
  if op == 0 || op == 0x4A || (0x60 ≤ op && op ≤ 0x6B) then 0
  else if [0x01, 0x02, 0x06, 0x07, 0x08, 0x0C, 0x0D, 0x0E, 0x0F, 0x15, 0x16].contains op then 1
  else if [0x09, 0x0A, 0x0B, 0x10, 0x11, 0x12, 0x13, 0x14].contains op then 2
  else if [0x03, 0x04, 0x05].contains op then 3
  else if op == 0x17 then 4
  else if [0x20, 0x21, 0x24, 0x25, 0x26, 0x27, 0x28, 0x30].contains op then 5
  else if [0x22, 0x23].contains op then 6
  else if [0x31, 0x32, 0x33].contains op then 7
  else if 0x29 ≤ op && op ≤ 0x2F then 8
  else if [0x34, 0x35].contains op then 9
  else if [0x40, 0x41, 0x42, 0x46, 0x47, 0x48, 0x49].contains op then 10
  else if [0x43, 0x44, 0x45, 0x4B].contains op then 11
  else if [0x50, 0x52, 0x59].contains op then 12
  else if [0x51, 0x53].contains op then 13
  else if [0x54, 0x55, 0x56, 0x57, 0x58, 0x5A].contains op then 14
  else 15

/-- What the warp's next word would charge (R213), while the record is at its high mark; 0 below it. -/
def State.nextCharge (s : State) (c : Nat) (g : Workgroup) (x : Warp) : Nat :=
  if (s.string (stringOf c)).charge < s.img.hmark then 0
  else
    match x.pick with
    | none => 0
    | some gang =>
      match s.fetchVf c g.vf gang.pc.toNat with
      | .word wd _ =>
        let grd := wd.extractLsb' 16 4
        if grd == 0xF then 0
        else
          let n := grd.toNat % 8
          let act := maskOf fun L => laneBit gang.cand L && x.predBit n L != grd.getLsbD 3
          s.weight (chargeClass (wd.extractLsb' 0 8).toNat) * popMask act
      | _ => 0

/-- Ready warps of a core: none of a halted workgroup, none that has trapped in this cycle, and none whose requests are held back (R203,
R211, R330). -/
def State.readyWarps (s : State) (c : Nat) : List Cand :=
  (List.range Config.nSlots).flatMap fun k =>
    match s.wg? c k with
    | none => []
    | some g =>
      if g.halted || (s.vf g.vf).heldBack then []
      else (List.range g.warps.length).filterMap fun w =>
        let x := g.warps.getD w default
        if x.ready s.clock && (g.trapped w).isNone then some { slot := k, w := w, wp := x, charge := s.nextCharge c g x } else none

/-- The first of two goes before the second (R212, R141): one that yields comes after every other ready warp (log 63). -/
def Cand.before (a b : Cand) : Bool :=
  let key (x : Cand) : List Nat :=
    [if x.wp.passed then 1 else 0, if x.wp.promo then 0 else 1, 3 - x.wp.pcls, x.charge, x.wp.lastAt, x.wp.wslot]
  (key a) < (key b)

def bestCand : List Cand → Option Cand
  | [] => none
  | a :: r =>
    match bestCand r with
    | none => some a
    | some b => some (if a.before b then a else b)

/-- The warp that scheduler q of the core issues, if a pipe of it is free. -/
def State.chosenWarp (s : State) (c q : Nat) : Option Cand :=
  if (pipesOf q).any fun p => (s.core c).pipes.getD p 0 ≤ s.clock then
    bestCand ((s.readyWarps c).filter fun x => x.wp.wslot % 4 == q)
  else none

/-- The ready driver slot that comes next (R215). -/
def State.chosenDriver (s : State) (c : Nat) : Option Nat :=
  ((List.range 8).map fun i => ((s.core c).feNext + i) % 8).find? fun k =>
    match s.wg? c k with
    | some g => s.driverReady c g
    | none => false

/-- The warps of a scheduler have been passed over once (R141): any issue of the scheduler spends a yield (log 63). -/
def Workgroup.passOver (q : Nat) (g : Workgroup) : Workgroup :=
  { g with warps := g.warps.map fun x => if x.wslot % 4 == q then { x with passed := false } else x }

/-- The next word of a candidate is an exit (opcode 0x65). -/
def State.exits (s : State) (c : Nat) (x : Cand) : Bool :=
  match x.wp.pick, s.wg? c x.slot with
  | some gang, some g =>
    match s.fetchVf c g.vf gang.pc.toNat with
    | .word wd _ => wd.extractLsb' 0 8 == 0x65
    | _ => false
  | _, _ => false

/-- The choices that scheduler q still has in this cycle, one for each of its pipes that is free: the first spends a yield, so that the
second is made without one (R141, R204; log 63). -/
def State.chosenWarps (s : State) (c q : Nat) : List Cand :=
  match s.chosenWarp c q with
  | none => []
  | some x =>
    x :: if (pipesOf q).all fun p => (s.core c).pipes.getD p 0 ≤ s.clock then
        (bestCand (((s.readyWarps c).filter fun y => y.wp.wslot % 4 == q && y.wp.wslot != x.wp.wslot).map fun y =>
          { y with wp := { y.wp with passed := false } })).toList
      else []

/-- The choices of the schedulers in this cycle, the first to act first, each with its scheduler and whether it is the scheduler's first:
exits come before the other words of the cycle (R33, R220). -/
def State.choices (s : State) (c : Nat) : Option (Nat × Bool × Cand) :=
  let xs := (List.range 4).flatMap fun q => (s.chosenWarps c q).zipIdx.map fun x => (q, x.2 == 0, x.1)
  match xs with
  | [] => none
  | [x] => some x
  | x :: _ => some ((xs.find? fun y => s.exits c y.2.2).getD x)

/-- The choice of a scheduler issues, unless its word waits for registers of another gang's (R83). An exit that goes before the
scheduler's first choice leaves that choice as it stands. -/
def State.runWarp (s : State) (c q : Nat) (first : Bool) (x : Cand) : Act :=
  match s.wg? c x.slot, x.wp.pick with
  | some g, some gang =>
    match s.lockOf c g x.wp gang with
    | some l => .done (s.modWarp c x.slot x.w fun y =>
        { y with waits := { leader := gang.leader, held := true, kind := .lock l } :: y.waits.filter fun q => q.leader != gang.leader })
    | none =>
      let s := if first then (List.range Config.nSlots).foldl (fun s k => s.modWg c k (Workgroup.passOver q)) s else s
      let s := s.modWarp c x.slot x.w fun _ => { x.wp with passed := false }
      match s.wg? c x.slot with
      | some g => s.issueWarp c x.slot x.w g x.wp gang
      | none => .done s
  | _, _ => .done s

/-- The front-end's word (R215), if it issues one in this cycle. -/
def State.runFront (s : State) (c : Nat) : Option Act :=
  let co := s.core c
  if co.feAt == s.clock + 1 then none
  else
    let d := s.chosenDriver c
    let turn := s.ostlerReady c && !(co.feOstler && co.feAt == s.clock && d.isSome)
    if turn then some ((s.modCore c fun co => { co with feAt := s.clock + 1, feOstler := true }).issueOstler c)
    else
      match d with
      | none => none
      | some k =>
        let s := s.modCore c fun co => { co with feAt := s.clock + 1, feOstler := false, feNext := (k + 1) % 8 }
        (s.wg? c k).map fun g => s.issueDriver c k g

/-- The next word of a core in this cycle: its schedulers, then its front-end. -/
def State.runCore (s : State) (c : Nat) : Option Act :=
  if !s.coreRuns c then none
  else
    match s.choices c with
    | some p => some (s.runWarp c p.1 p.2.1 p.2.2)
    | none => s.runFront c

end Sys2Proof.Machine
end

