-- ==== Sys2Proof/Machine/Schedule.lean ====
section
/-!
DEFINITION. What the machine does next: bring-up, an event that the surroundings have caused, an event whose time has come, the next
word of a core, a string beat, or the end of the cycle.
-/
namespace Sys2Proof.Machine

/-- Events that the surroundings cause; they wait in `State.inputs`. -/
def fromOutside : Instr → Bool
  | .wsbcastReceive .. | .coreLoss .. | .queueNotify .. | .vfPauseWrite .. | .vfTimeWrite .. | .vfQtailWrite .. | .registerWrite ..
  | .flrRequest .. | .hostCxlMemAccess .. | .hostCxlCacheAccess .. | .towpathPeerAccess .. | .flitReceive .. | .nakReceive ..
  | .flitRetryTimer .. | .regionTeardown .. | .stringLeavesRegion .. => true
  | _ => false

/-- An open moment has come in this cycle, for the event with a number (log 34). -/
def State.happens (s : State) (n : Nat) : Bool := Config.freeNat s.clock (1000 + n) % 2 == 1

/-! Events of a workgroup -/

/-- A warp of the workgroup whose own event is due: the end of a RETRY, of PINWAIT, or a promotion, for
which the cycles of a gated or waking string count too (R214; log 35). -/
def State.dueWarp (s : State) (c k : Nat) (g : Workgroup) : Option Act :=
  (List.range g.warps.length).findSome? fun w =>
    let x := g.warps.getD w default
    if x.waits.any (s.freed c) then some (.done (s.release c k w))
    else if x.starving s.clock then some (.run (.warpPromotion c k w) s)
    else if (g.trapped w).isNone && (s.warpPin c x).isSome then some (.run (.pinwaitExpiry c k (.warp w)) s)
    else none

/-- A batch that has finished and completes now (R177). -/
def State.dueBatch (s : State) (c k : Nat) (g : Workgroup) : Option Instr :=
  ((List.range 16).find? fun n =>
    g.inflight n && !cmdsPending (s.core c).passesRun (g.batch n).cmds && s.happens (128 * c + 16 * k + n)).map fun n => .batchCompletion c k n

/-- A relay whose legs have all joined begins (R198). -/
def Workgroup.relayDue (g : Workgroup) : Bool :=
  match g.relay with
  | some r => !r.begun && g.joined r
  | none => false

/-- A command that has waited runs, in the place of its driver (R158, R229). -/
def State.runRetry (s : State) (c k : Nat) (p : Nat × Nat × Retry) : Act :=
  .run p.2.2.word { s with cur := { core := c, slot := k, agent := .driver }, replay := some (p.1, p.2.1) }

/-- The first event of a workgroup that is due before the words of the cycle. -/
def State.dueWg (s : State) (c k : Nat) (g : Workgroup) : Option Act :=
  if s.towDue g then some (.run (.towpathTimeout c k) s)
  else
    match s.dueBatch c k g with
    | some i => some (.run i s)
    | none =>
      match s.retryDue c g with
      | some p => some (s.runRetry c k p)
      | none =>
        if g.halted then none
        else if g.relayDue then some (.run (.relayBegin c k) s)
        else if s.commitDue c g then some (.done (s.decide c k))
        else if (g.trapped 16).isNone && ((s.driverPin c g).or (s.commandPin c g)).isSome then some (.run (.pinwaitExpiry c k .driver) s)
        else s.dueWarp c k g

/-- What follows the words of the cycle: its traps are settled (R330), and only then a deadline is reached (R343), the share of parked
warps is looked at (R332), and a role is granted (R33, R220). -/
def State.lateWg (s : State) (c k : Nat) (g : Workgroup) : Option Act :=
  if !g.trapping.isEmpty then some (.done (s.settleTraps c k))
  else if s.timerDue g then some (.run (.timerDeadline c k) s)
  else if s.parkedChange g then some (.done (s.parkedNote c k))
  else if g.halted then none
  else ((List.range g.warps.length).find? g.grantable).map fun w => .run (.roleGrant c k w) s

/-! Events of cores, strings and rails -/

/-- A record whose restore, 1 ms after its save, does something: it resumes, or its launch ends (R254, R332, R360). -/
def State.dueCore (s : State) (c : Nat) : Option Instr :=
  let co := s.core c
  ((List.range co.resume.length).find? fun i =>
      match co.resume[i]? with
      | some r => r.due s.clock && s.restoreActs c r
      | none => false).map fun i => .parkedRestoreTimeout c i

/-- The entries that a core may take from other affinity queues now, each with its launch. -/
def State.stealable (s : State) (c : Nat) : List (Nat × Nat × Launch) :=
  (List.range s.cores.length).flatMap fun q =>
    if q == c then []
    else (List.range (s.core q).affq.length).filterMap fun i =>
      if s.canSteal q i c then (((s.core q).affq[i]?).bind s.affLaunch).map fun l => (q, i, l) else none

/-- The entry of the launch that comes first (R298). -/
def State.firstOf (s : State) : List (Nat × Nat × Launch) → Option (Nat × Nat × Launch)
  | [] => none
  | e :: r =>
    match s.firstOf r with
    | none => some e
    | some d => some (if s.prefers e.2.2 d.2.2 then e else d)

/-- A queued ticket that a core takes now: the oldest of its own queue, else one that has waited STEALB elsewhere (R311). -/
def State.dueSteal (s : State) (c : Nat) : Option Instr :=
  if s.cores.all (·.affq.isEmpty) || !s.happens (40000 + c) then none
  else if s.canSteal c 0 c then some (.affinitySteal c 0 c)
  else (s.firstOf (s.stealable c)).map fun e => .affinitySteal e.1 e.2.1 c

/-- A waiting agent of a string that does not run could go on (R211, R215, R350). -/
def State.stirs (s : State) (n : Nat) : Bool :=
  (stringCores n).any fun c => !(s.core c).lost &&
    (!(s.readyWarps c).isEmpty || (s.chosenDriver c).isSome || s.ostlerReady c)

/-- The first due event of a string. -/
def State.dueString (s : State) (n : Nat) : Option Instr :=
  if s.sliceDue n then some (.sliceEnd n)
  else if s.strimbDue n then
    let b := s.nodes n
    some (.strimbUpdate n b.1 b.2.1 b.2.2)
  else
    match (s.string n).gate with
    | .awake => none
    | .gating _ => if s.happens (60000 + n) then some (.gatingSequenceEnd n) else none
    | .gated => none
    | .waking _ => if s.wakeDue n then some (.wakeComplete n) else none

/-- The first due event of cores and rails. -/
def State.dueChip (s : State) : Option Instr :=
  match (List.range s.cores.length).findSome? s.dueCore with
  | some i => some i
  | none =>
    match (List.range s.cores.length).findSome? s.dueSteal with
    | some i => some i
    | none =>
      match (List.range 4).find? s.rampDue with
      | some r => some (.operatingPointReached r)
      | none => if s.holdDue then some .railHoldEnd else none

/-- The first event that is due before the words of the cycle. -/
def State.dueEvent (s : State) : Option Act :=
  match (List.range s.strings.length).findSome? s.dueString with
  | some i => some (.run i s)
  | none =>
    match s.residents.findSome? fun p => s.dueWg p.1 p.2.1 p.2.2 with
    | some a => some a
    | none =>
      match s.admitReady with
      | some p => some (.done (s.admitOne p))
      | none => s.dueChip.map fun i => .run i s

/-- The first event that is due when the words of the cycle have been issued; the rail's window ends after every error of its cycle
(R358). -/
def State.lateEvent (s : State) : Option Act :=
  match s.residents.findSome? fun p => s.lateWg p.1 p.2.1 p.2.2 with
  | some a => some a
  | none =>
    if s.windowDue then some (.run (.sramRailWindow s.sramCe) s)
    else ((List.range s.strings.length).find? s.autoGateDue).map fun n => .run (.autoGate n) s

/-- A string that does not run and must wake. -/
def State.sleeper (s : State) : Option Nat :=
  (List.range s.strings.length).find? fun n =>
    (match (s.string n).gate with | .gated => true | .gating w => !w | _ => false) && s.stirs n

/-- The word gates a string. -/
def Act.gates : Act → Bool
  | .run (.gateNow _) _ => true
  | _ => false

/-- The next word of the cycle in core order; one that gates a string comes after the words of every other core (R358). -/
def State.nextWord (s : State) : Option Act :=
  ((List.range s.cores.length).findSome? fun c => (s.runCore c).filter fun a => !a.gates).or
    ((List.range s.cores.length).findSome? s.runCore)

/-- What happens when no early event is due: a wake, the next word in core order, a late event, a string beat, the end of the cycle. -/
def State.actCycle (s : State) : Act :=
  match s.sleeper with
  | some n => .done (s.wakeFor (4 * n))
  | none =>
    match s.nextWord with
    | some a => a
    | none =>
      match s.lateEvent with
      | some a => a
      | none =>
        match (List.range s.strings.length).find? s.beatDue with
        | some n => .run (.stringBeat n) s
        | none => .run .chargeRecordUpdate s

/-- What the machine does next. Without a valid configuration it only counts cycles (R370). -/
def State.act (s : State) : Act :=
  if s.brickd then .run .chargeRecordUpdate s
  else if !s.up then .run .bringUp s
  else if !s.regQueue.isEmpty then .done s.settleRegs
  else
    match s.upsets with
    | u :: r => .done (({ s with upsets := r } : State).suffer u)
    | [] =>
      match s.inputs with
      | i :: r => if fromOutside i then .run i { s with inputs := r } else .done { s with inputs := r }
      | [] =>
        match s.dueEvent with
        | some a => a
        | none => s.actCycle

/-! A word placed for the next step (log 9) -/

/-- A header with every resource declared. -/
def openHeader : KHeader :=
  { wcode := 0, drvoff := 0, fbtab := 0, fbn := 0, affbase := 0, objects := true, relay := true, cores := false, idemp := false,
    barcnt := List.replicate 16 2, members := List.replicate 16 0x10001, scratch := 65536, tiles := 32, warps := 1,
    roles := List.replicate 4 { count := 256, pcls := 0, stchk := false, unifx := false, decl := true, entry := 0 } }

/-- A workgroup of function 0 whose warp or driver, but not both, fetches at virtual address 0. -/
def State.openWg (s : State) (warp : Bool) : Workgroup :=
  let l : Launch := { vf := 0, lid := 1, image := 0, region := 0, parent := none, endedAs := none, reserved := [], restarts := [], badSaves := [],
                      begun := true }
  let g := s.freshWg 0 l openHeader 0 0 0
  if warp then { g with drv := { g.drv with ended := true } }
  else { g with warps := g.warps.map fun x => { x with exited := BitVec.allOnes 32 } }

/-- The module up, with a word at the base of host memory, which virtual address 0 of function 0 names; a system word is the next of
core 0's ostler, a driver or engine word that of the driver of its slot 0, any other that of its warp 0. -/
def State.withWord (s : State) (w : W96) : State :=
  let op := (w.extractLsb' 0 8).toNat
  let s : State := { s with up := true, brickd := false, inputs := [], upsets := [], replay := none,
                            mem := s.mem.writeList Config.hostBase (leBytes 12 w.toNat) }
  let e : TlbEntry := { vf := 0, va := 0, size := 65536, pa := Config.hostBase, x := true, w := true, rd := true }
  if 0xE0 ≤ op then
    s.modCore 0 fun co => { co with ostler := { co.ostler with started := true, pc := BitVec.ofNat 64 Config.hostBase, readyAt := 0 } }
  else
    (s.modCore 0 fun co => { co with tlb := e :: co.tlb }).setSlot 0 0 (some (s.openWg (op < 0x80)))

end Sys2Proof.Machine
end

