-- ==== Sys2Proof/Machine/Step.lean ====
section
/-!
DEFINITION. One step of the machine.
-/
namespace Sys2Proof.Machine

/-- One step: what `State.act` names, executed. -/
def step (s : State) : Host.Outcome State Fault Refusal :=
  match s.act with
  | .run i t => exec i t
  | .done t => .next t

/-- `s` with an instruction stored where the next step fetches it (log 9): bits above `nbits` are zero. -/
def State.withFetchWord (s : State) (nbits w : Nat) : State := s.withWord (BitVec.ofNat 96 (w % 2 ^ nbits))

end Sys2Proof.Machine
end

