-- ==== Sys2Proof/Safety.lean ====
section
/-!
DEFINITION. What counts as a safe run, in the terms that the statements use: outcomes that go on, the invariant of the state, what a
word of each stream leaves as it was, and what each lane instruction computes.
-/
namespace Sys2Proof.Machine

/-- The outcome goes on to some state. -/
def goesOn (r : Out) : Prop := ∃ t, r = .next t

/-- A run of `n` steps from `s` that never faults and is never refused. -/
def safeRun : Nat → State → Prop
  | 0, _ => True
  | n + 1, s => ∃ t, step s = .next t ∧ safeRun n t

/-! The invariants -/

/-- A warp has its registers: as many v registers as it declares (R14), seven predicates, eight index registers and their windows
(R12, R18). -/
def Warp.wf (w : Warp) : Bool := w.v.length == w.count && w.p.length == 7 && w.x.length == 8 && w.win.length == 8

/-- A tile has 32 rows of 96 cells, and a row state for each (R24). -/
def Tile.wf (t : Tile) : Bool := t.cells.length == 32 && t.cells.all (fun r => r.length == 96) && t.rows.length == 32

/-- A workgroup has the registers of its warps and its driver, its tiles, and its queues (R12, R23 to R25). -/
def Workgroup.wf (g : Workgroup) : Bool :=
  g.warps.all Warp.wf && g.drv.d.length == 32 && g.tiles.all Tile.wf && g.slots.length == 8 && g.bars.length == 16
    && g.batches.length == 16

/-- A core has its slots, and the registers of its ostler and its workgroups. -/
def Core.wf (co : Core) : Bool :=
  co.slots.length == Config.nSlots && co.ostler.d.length == 32
    && co.slots.all fun g => match g with | some g => g.wf | none => true

/-- The module has its parts (R1), each with its registers. -/
structure State.Regs (s : State) : Prop where
  cores   : s.cores.length = Config.nCores
  core    : ∀ co ∈ s.cores, co.wf = true
  strings : s.strings.length = Config.nStrings
  vfs     : s.vfs.length = Config.nVfs
  rails   : s.rails.length = 4
  ports   : s.ports.length = Config.nPorts
  mr      : s.mr.length = 8

/-- Memory and every scratchpad are in canonical form, and an L1 holds a line at most once, with all of its 64 bytes (R241). -/
structure State.Mem (s : State) : Prop where
  mem     : s.mem.wf = true
  scratch : ∀ co ∈ s.cores, co.scratch.wf = true
  once    : ∀ co ∈ s.cores, (co.l1.map (·.line)).Nodup
  full    : ∀ co ∈ s.cores, ∀ l ∈ co.l1, l.data.length = 64

/-- No word of memory that L2 holds is bad (R251), and no store to registers waits in an L1 or on its way to them (R249): what an L1
writes back is memory. -/
def State.atRest (s : State) : Prop :=
  s.memBad = [] ∧ s.regQueue = [] ∧ ∀ co ∈ s.cores, ∀ l ∈ co.l1, s.regLine l = false

/-! A warp word that completes -/

/-- Lane L of v register n, of predicate n, of index register n. -/
def Warp.lane (x : Warp) (n L : Nat) : W32 := (x.v.getD n []).getD L 0
def Warp.plane (x : Warp) (n L : Nat) : Bool := laneBit (x.p.getD n 0) L
def Warp.xlane (x : Warp) (n L : Nat) : W16 := (x.x.getD n []).getD L 0

/-- A warp without what every completed word changes: the places of its lanes, its gangs, its repetition, its timing. -/
def Warp.still (x : Warp) : Warp :=
  { x with pcs := [], leaders := [], turn := 0, rep := default, sb := [], readyAt := 0, lastAt := 0, readySince := 0, endsAt := 0,
           promo := false, passed := false, waits := [] }

/-- No fixed-latency result of the warp is in flight (R83), and no unwaited `mmag` may read its registers (R160). -/
def Issue.settled (it : Issue) : Bool :=
  it.wp.wf && (it.wp.sb.all fun e => e.2.2 ≤ it.s.clock) && it.wg.hazards.all fun h => h.vreg.isNone

/-- The warp in turn issues a word with control fields `c`, no timed no-op (R64), with everything settled. -/
def State.warpRuns (s : State) (c : Ctl) (it : Issue) : Prop :=
  s.warpIssue c = some it ∧ c.grd ≠ 0xF ∧ it.settled = true

/-- `t` is `s` after a word of `it` that leaves its warp as `x`: besides the warp, only a pipe of its core and the charges of its
string's cycle have changed. -/
def Issue.ends (it : Issue) (s : State) (x : Warp) (t : State) : Prop :=
  ∃ (go : Warp → Warp) (pf : Core → List Nat) (cf : StringSt → Nat), go it.wp = x ∧
    t = ((s.modWarp it.core it.slot it.w go).modCore it.core fun co => { co with pipes := pf co }).modString (stringOf it.core)
      fun st => { st with charging := cf st }

/-- Candidate lanes stand past the word, the others where they were; a word inside a `rep` sequence is repeated instead (R117). -/
def Issue.advanced (it : Issue) (x : Warp) : Prop :=
  it.wp.rep.active = false →
    ∀ L, L < 32 → x.pcOf L = if laneBit it.gang.cand L then it.gang.pc + 12 else it.wp.pcOf L

/-- Register j past D of each active lane holds its value, and every other register of every lane what it held. -/
def Issue.wrote (it : Issue) (d : Opnd) (val : Nat → W32) (x : Warp) : Prop :=
  ∀ n L, L < 32 → x.lane n L = if laneBit it.act L && it.regNo 0 d L == some (n : Int) then val L else it.wp.lane n L

/-- The word writes `val` to v register D and adds flags to FSTAT, and changes nothing else. -/
def Issue.writesV (it : Issue) (d : Opnd) (val : Nat → W32) (flags : Byte) (t : State) : Prop :=
  ∃ x, it.ends it.s x t ∧ it.advanced x ∧ it.wrote d val x ∧
    x.still = { it.wp with v := x.v, fstat := it.wp.fstat ||| flags }.still

/-- The word writes `val` to predicate D, and changes nothing else; p7 and class 5 discard. -/
def Issue.writesP (it : Issue) (d : Opnd) (val : Nat → Bool) (t : State) : Prop :=
  ∃ x, it.ends it.s x t ∧ it.advanced x ∧
    (∀ n L, n < 7 → L < 32 →
      x.plane n L = if laneBit it.act L && d == .pred (BitVec.ofNat 3 n) then val L else it.wp.plane n L) ∧
    x.still = { it.wp with p := x.p }.still

/-! What lane instructions compute -/

/-- A lane instruction with a v result: its word, how its immediates are read (none for a field it does not use), whether it reads
the prior D, and the result with its flags. -/
structure LaneWord where
  o   : Op3
  a   : Option Imm
  b   : Option Imm
  c   : Bool
  res : W32 → W32 → W32 → W32 × Byte

/-- The value of a lane as an unbounded integer in a TYPE's signedness (R98). -/
def asInt (typ : Nat) (x : W32) : Int := if typ = 0 then x.toInt else (x.toNat : Int)

/-- An exact integer fitted to 32 bits (R35): modulo 2^32, or clamped, with FSTAT.SAT, bit 5, for a clamp. -/
def fitted (typ : Nat) (sat : Bool) (r : Int) : W32 × Byte :=
  let lo : Int := if typ = 0 then -2147483648 else 0
  let hi : Int := if typ = 0 then 2147483647 else 4294967295
  let c : Int := if r < lo then lo else if hi < r then hi else r
  if sat then (BitVec.ofInt 32 c, if c = r then 0 else 0x20) else (BitVec.ofInt 32 r, 0)

/-- How a typed immediate is read (R69, R98). -/
def typedImm (o : Op3) : Imm := if o.typ = 1 then .zx else .sx

/-- Position and length of a bit field (R99). -/
def fieldPos (b : W32) : Nat := min (b.toNat % 256) 32
def fieldLen (b : W32) : Nat := min (b.toNat / 256 % 256) (32 - fieldPos b)

/-- The words of R98 to R100 that compute an integer lane result. -/
def intWord : Instr → Option LaneWord
  | .iadd o => some ⟨o, some (typedImm o), some (typedImm o), false, fun a b _ => fitted o.typ o.sat (asInt o.typ a + asInt o.typ b)⟩
  | .isub o => some ⟨o, some (typedImm o), some (typedImm o), false, fun a b _ => fitted o.typ o.sat (asInt o.typ a - asInt o.typ b)⟩
  | .imul o => some ⟨o, some (typedImm o), some (typedImm o), false, fun a b _ => fitted o.typ o.sat (asInt o.typ a * asInt o.typ b)⟩
  | .imulh o => some ⟨o, some (typedImm o), some (typedImm o), false,
      fun a b _ => ((BitVec.ofInt 64 (asInt o.typ a * asInt o.typ b)).extractLsb' 32 32, 0)⟩
  | .imad o => some ⟨o, some (typedImm o), some (typedImm o), true,
      fun a b c => fitted o.typ o.sat (asInt o.typ a * asInt o.typ b + asInt o.typ c)⟩
  | .imin o => some ⟨o, some (typedImm o), some (typedImm o), false,
      fun a b _ => (if asInt o.typ a ≤ asInt o.typ b then a else b, 0)⟩
  | .imax o => some ⟨o, some (typedImm o), some (typedImm o), false,
      fun a b _ => (if asInt o.typ a ≤ asInt o.typ b then b else a, 0)⟩
  | .iabs o => some ⟨o, some .sx, none, false,
      fun a _ _ => if a = 0x8000_0000 then (if o.sat then (0x7FFF_FFFF, 0x20) else (0x8000_0000, 0))
        else (if a.msb then -a else a, 0)⟩
  | .shl o => some ⟨o, some .sx, some .zx, false, fun a b _ => (a <<< b.toNat, 0)⟩
  | .shr o => some ⟨o, some .sx, some .zx, false, fun a b _ => (a >>> b.toNat, 0)⟩
  | .sar o => some ⟨o, some .sx, some .zx, false, fun a b _ => (a.sshiftRight b.toNat, 0)⟩
  | .and o => some ⟨o, some .sx, some .sx, false, fun a b _ => (a &&& b, 0)⟩
  | .or o => some ⟨o, some .sx, some .sx, false, fun a b _ => (a ||| b, 0)⟩
  | .xor o => some ⟨o, some .sx, some .sx, false, fun a b _ => (a ^^^ b, 0)⟩
  | .lut3 o => some ⟨o, some .sx, some .sx, true, fun a b c =>
      (maskOf fun i => o.var.getLsbD ((laneBit a i).toNat + 2 * (laneBit b i).toNat + 4 * (laneBit c i).toNat), 0)⟩
  | .popc o => some ⟨o, some .sx, none, false, fun a _ _ => (BitVec.ofNat 32 ((List.range 32).countP fun i => laneBit a i), 0)⟩
  | .clz o => some ⟨o, some .sx, none, false,
      fun a _ _ => (BitVec.ofNat 32 (((List.range 32).find? fun k => laneBit a (31 - k)).getD 32), 0)⟩
  | .brev o => some ⟨o, some .sx, none, false, fun a _ _ => (a.reverse, 0)⟩
  | .bfx o => some ⟨o, some (typedImm o), some .zx, false, fun a b _ =>
      (if fieldLen b = 0 then 0
       else if o.typ = 0 then (a <<< (32 - fieldPos b - fieldLen b)).sshiftRight (32 - fieldLen b)
       else (a <<< (32 - fieldPos b - fieldLen b)) >>> (32 - fieldLen b), 0)⟩
  | .bfi o => some ⟨o, some .sx, some .zx, true, fun a b c =>
      (maskOf fun i => if fieldPos b ≤ i ∧ i < fieldPos b + fieldLen b then laneBit a (i - fieldPos b) else laneBit c i, 0)⟩
  | .idot4 o => some ⟨o, some .i8, some .i8, true, fun a b c =>
      fitted 0 o.sat (c.toInt + (a.extractLsb' 0 8).toInt * (b.extractLsb' 0 8).toInt
        + (a.extractLsb' 8 8).toInt * (b.extractLsb' 8 8).toInt + (a.extractLsb' 16 8).toInt * (b.extractLsb' 16 8).toInt
        + (a.extractLsb' 24 8).toInt * (b.extractLsb' 24 8).toInt)⟩
  | _ => none

/-- The words of R101 to R106 that compute a floating-point lane result: sources after their modifiers, rounded once. -/
def fltWord : Instr → Option LaneWord
  | .fadd o => some ⟨o, some .f32, some .f32, false, fun a b _ => addF32 o.rnd (modA o a) (modB o b)⟩
  | .fsub o => some ⟨o, some .f32, some .f32, false, fun a b _ => addF32 o.rnd (modA o a) (modB o b ^^^ 0x8000_0000)⟩
  | .fmul o => some ⟨o, some .f32, some .f32, false, fun a b _ => mulF32 o.rnd (modA o a) (modB o b)⟩
  | .fma o => some ⟨o, some .f32, some .f32, true, fun a b c => fmaF32 o.rnd (modA o a) (modB o b) (modC o c)⟩
  | .fmin o => some ⟨o, some .f32, some .f32, false, fun a b _ => (minF32 (modA o a) (modB o b), 0)⟩
  | .fmax o => some ⟨o, some .f32, some .f32, false, fun a b _ => (maxF32 (modA o a) (modB o b), 0)⟩
  | .fclass o => some ⟨o, some .f32, none, false, fun a _ _ => (fclassF (modA o a), 0)⟩
  | .frnd o => some ⟨o, some .f32, none, false, fun a _ _ => frndF o.rnd (modA o a)⟩
  | .frcp o => some ⟨o, some .f32, none, false, fun a _ _ => frcpF (modA o a)⟩
  | .frsq o => some ⟨o, some .f32, none, false, fun a _ _ => frsqF (modA o a)⟩
  | .fsqrt o => some ⟨o, some .f32, none, false, fun a _ _ => fsqrtF o.rnd (modA o a)⟩
  | .fexp2 o => some ⟨o, some .f32, none, false, fun a _ _ => fexp2F (modA o a)⟩
  | .flog2 o => some ⟨o, some .f32, none, false, fun a _ _ => flog2F (modA o a)⟩
  | .fsin o => some ⟨o, some .f32, none, false, fun a _ _ => fsinF (modA o a)⟩
  | .fcos o => some ⟨o, some .f32, none, false, fun a _ _ => fcosF (modA o a)⟩
  | .fscale o => some ⟨o, some .f32, some .sx, false, fun a b _ => fscaleF o.rnd (modA o a) b⟩
  | .hadd2 o => some ⟨o, some .bf2, some .bf2, false, fun a b _ => hadd2F o.rnd (hA o a) (hB o b)⟩
  | .hmul2 o => some ⟨o, some .bf2, some .bf2, false, fun a b _ => hmul2F o.rnd (hA o a) (hB o b)⟩
  | .hfma2 o => some ⟨o, some .bf2, some .bf2, true, fun a b c => hfma2F o.rnd (hA o a) (hB o b) (hC o c)⟩
  | .cvt o => some ⟨o, some (cvtImm o.xt.toNat), none, false, fun a _ _ => cvtF o.xt.toNat o.typ o.rnd o.sat a⟩
  | _ => none

/-- The values of the sources of lane L. -/
def LaneWord.args (p : LaneWord) (it : Issue) (L : Nat) : W32 × Byte :=
  p.res (it.src 1 p.o.a (p.a.getD .sx) 0 L) (it.src 2 p.o.b (p.b.getD .sx) 0 L) (if p.c then it.src 0 p.o.d .sx 0 L else 0)

/-- The operands that a lane word checks (R14, R18), D first (R375). -/
def LaneWord.checked (p : LaneWord) : List (Nat × Opnd × Nat) :=
  (0, p.o.d, 1) :: ((if p.a.isSome then [(1, p.o.a, 1)] else []) ++ (if p.b.isSome then [(2, p.o.b, 1)] else [])
    ++ (if p.c then [(0, p.o.d, 1)] else []))

/-- The flags that the active lanes set. -/
def LaneWord.flags (p : LaneWord) (it : Issue) : Byte := (lanesOf it.act).foldl (fun z L => z ||| (p.args it L).2) 0

/-! Exact values (R36, R38, R40) -/

/-- A finite value as a multiple of 2^-K, for a K so great that it is one. -/
def FVal.times (K : Nat) : FVal → Int
  | .fin neg m e => (if neg then -(m : Int) else m) * 2 ^ (e + K).toNat
  | _ => 0

/-- The code is one of a finite value. -/
def Fmt.isFinite (f : Fmt) (c : Nat) : Prop := c < 2 ^ f.width ∧ ∃ n m e, f.decode c = .fin n m e

/-- `z` is the integer to which x / 2^K rounds in a mode (R36): 0 rne, 1 rz, 2 ru, 3 rd. -/
def roundsTo (mode : Nat) (x : Int) (K : Nat) (z : Int) : Prop :=
  let d := z * 2 ^ K - x
  if mode = 0 then 2 * d.natAbs ≤ 2 ^ K ∧ (2 * d.natAbs = 2 ^ K → z % 2 = 0)
  else if mode = 1 then d.natAbs < 2 ^ K ∧ (z * 2 ^ K).natAbs ≤ x.natAbs
  else if mode = 2 then 0 ≤ d ∧ d < 2 ^ K
  else -(2 ^ K : Int) < d ∧ d ≤ 0

/-- The floating-point formats. -/
def formats : List Fmt := [fF32, fBF16, fF16, fE4M3, fE5M2]

/-! Predicates, reductions, index registers -/

/-- COND of `isetp` on integers (R100). -/
def compared (cond : Nat) (a b : Int) : Bool :=
  if cond = 0 then a = b else if cond = 1 then a ≠ b else if cond = 2 then a < b else if cond = 3 then a ≤ b
  else if cond = 4 then a > b else a ≥ b

/-- COND of `fsetp` (R103): with a NaN only `.ne` and `.nan` hold. -/
def fcompared (cond : Nat) (x y : FVal) : Bool :=
  if x.isNan || y.isNan then cond = 1 || cond = 7
  else if cond = 0 then !FVal.lt x y && !FVal.lt y x
  else if cond = 1 then FVal.lt x y || FVal.lt y x
  else if cond = 2 then FVal.lt x y
  else if cond = 3 then !FVal.lt y x
  else if cond = 4 then FVal.lt y x
  else if cond = 5 then !FVal.lt x y
  else cond = 6

/-- The number of a predicate or index operand, and whether a predicate operand holds in lane L; class 5 reads as false. -/
def predHolds (w : Warp) (o : Opnd) (L : Nat) : Bool :=
  match o with
  | .pred n => n = 7 || w.plane n.toNat L
  | _ => false

/-- The integer operations of `wred` and `wscan` (R111), and their identities. -/
def redInt (op typ : Nat) (a b : W32) : W32 :=
  if op = 0 then a + b
  else if op = 1 then (if asInt typ a ≤ asInt typ b then a else b)
  else if op = 2 then (if asInt typ a ≤ asInt typ b then b else a)
  else if op = 3 then a &&& b else if op = 4 then a ||| b else a ^^^ b

def redUnit (op typ : Nat) : W32 :=
  if op = 1 then (if typ = 0 then 0x7FFF_FFFF else 0xFFFF_FFFF)
  else if op = 2 then (if typ = 0 then 0x8000_0000 else 0)
  else if op = 3 then 0xFFFF_FFFF else 0

/-- What lane L receives from `wscan` (R112): the combination of the active lanes up to it, or before it; an f32 NaN of one lane alone
is the canonical one (R39). -/
def scanned (op typ : Nat) (ex : Bool) (act : W32) (x : Nat → W32) (L : Nat) : W32 :=
  match (lanesOf act).filter fun M => if ex then M < L else M ≤ L with
  | [] => redIdent op typ
  | M :: r => r.foldl (fun z N => (redStep op typ z (x N)).1) (if typ = 2 ∧ (f32 (x M)).isNan then 0x7FC0_0000 else x M)

/-- The word writes `val` to index register N, and changes nothing else. -/
def Issue.writesX (it : Issue) (N : Nat) (val : Nat → W16) (t : State) : Prop :=
  ∃ x, it.ends it.s x t ∧ it.advanced x ∧
    (∀ n L, n < 8 → L < 32 → x.xlane n L = if laneBit it.act L && n == N then val L else it.wp.xlane n L) ∧
    x.still = { it.wp with x := x.x }.still

/-- The word changes nothing but what every word changes. -/
def Issue.passes (it : Issue) (t : State) : Prop :=
  ∃ x, it.ends it.s x t ∧ it.advanced x ∧ x.still = it.wp.still

/-- The control fields of a word of the warp stream. -/
def warpCtl : Instr → Option Ctl
  | .nop o | .iadd o | .isub o | .imul o | .imulh o | .imad o | .imin o | .imax o | .iabs o | .shl o | .shr o | .sar o
  | .and o | .or o | .xor o | .lut3 o | .popc o | .clz o | .brev o | .bfx o | .bfi o | .isetp o | .sel o | .idot4 o
  | .fadd o | .fsub o | .fmul o | .fma o | .fmin o | .fmax o | .fsetp o | .fclass o | .frnd o | .frcp o | .frsq o
  | .fsqrt o | .fexp2 o | .flog2 o | .fsin o | .fcos o | .fscale o | .hadd2 o | .hmul2 o | .hfma2 o | .cvt o | .qnt48 o
  | .mov o | .sread o | .sreadClr o | .vote o | .wred o | .wscan o | .plop o | .xset o | .xwin o | .xadd o | .rep o
  | .dqpop o | .ld o | .st o | .lds o | .sts o | .atom o | .atoms o | .red o | .fence o | .fencex o | .pref o | .cctl o
  | .brx o | .ret o | .exit o | .hitch o | .bar o | .barArv o | .role o | .fbp o | .yield o | .trap o | .racc o
  | .rfirst o | .rsigGuessed o | .rsigExit o | .rjoin o => some o.ctl
  | .movi o | .bra o | .bru o | .call o => some o.ctl
  | _ => none

/-! Memory words of a warp -/

/-- A function's dirty map holds the byte (R340). -/
def State.tracked (s : State) (f pa : Nat) : Prop :=
  (s.vf f).dirtyMap ≠ 0 ∧ (s.vf f).dirtyMap.toNat ≤ pa ∧ pa < (s.vf f).dirtyMap.toNat + ((s.vf f).dirtyN.toNat + 7) / 8

/-- Registers j below `k` past D of each active lane hold their values, and every other register of every lane what it held. -/
def Issue.wroteRegs (it : Issue) (d : Opnd) (k : Nat) (val : Nat → Nat → W32) (x : Warp) : Prop :=
  ∀ n L : Nat, L < 32 →
    (∀ j, j < k → laneBit it.act L = true → it.regNo 0 d L = some ((n : Int) - (j : Int)) → x.lane n L = val j L) ∧
    ((∀ j, j < k → laneBit it.act L = true → it.regNo 0 d L ≠ some ((n : Int) - (j : Int))) → x.lane n L = it.wp.lane n L)

/-- `m` is the state of the issue but for memory and its L2 record, the L1 and the translations of the core, and, where the warp is
a relay leg, what the workgroup's relay remembers of accesses. -/
def Issue.onlyMem (it : Issue) (m : State) : Prop :=
  ∃ (l1 : List L1Line) (tlb : List TlbEntry) (rel : Option Relay → Option Relay),
    ((it.wg.legOf it.w).isNone = true → rel = id) ∧
    m = { ((it.s.modCore it.core fun co => { co with l1 := l1, tlb := tlb }).modWg it.core it.slot fun g =>
            { g with relay := rel g.relay }) with
          mem := m.mem, poison := m.poison, l2 := m.l2, walks := m.walks, ruined := m.ruined, trims := m.trims, free := m.free }

/-- The same for a word that reaches scratchpad. -/
def Issue.onlyScratch (it : Issue) (m : State) : Prop :=
  ∃ (sc : Memory) (bad : List Nat) (sm : List (Nat × Nat × Nat)) (rel : Option Relay → Option Relay),
    ((it.wg.legOf it.w).isNone = true → rel = id) ∧
    m = { ((it.s.modCore it.core fun co => { co with scratch := sc, badWords := bad, smear := sm }).modWg it.core it.slot fun g =>
            { g with relay := rel g.relay }) with free := m.free }

/-- The access of lane `a` reaches byte `pa`, of `n` bytes each. -/
def LaneAt.at_ (a : LaneAt) (n pa : Nat) : Prop := a.pa ≤ pa ∧ pa < a.pa + n

/-- A memory as a function, for stating what a sequence of updates does. -/
abbrev Bytes := Nat → Byte

/-- Bytes with some of them replaced, in order. -/
def Bytes.put (m : Bytes) (bs : List (Nat × Byte)) : Bytes := bs.foldl (fun m b a => if a = b.1 then b.2 else m a) m

/-- The active lanes' atomic updates, in ascending order: the bytes after, and each lane's old value (R126). -/
def Issue.atomics (it : Issue) (o : Op3) (m : Bytes) (ls : List LaneAt) : Bytes × List (Nat × Nat) :=
  atomicLanes (fun (m : Bytes) a => m a) Bytes.put (fmtBytes o.typ)
    (fun L old => atomicNew o.aop o.sgn (8 * fmtBytes o.typ) old (it.atomData o L).1 (it.atomData o L).2) m ls

/-- The speculative leg that the warp is, if it is one, does nothing of its own here. -/
def Issue.plain (it : Issue) : Prop := it.specLeg = none

/-! Control words of a warp -/

/-- Active lanes stand where `dest` says, the other candidate lanes past the word, the others where they were. -/
def Issue.went (it : Issue) (dest : Nat → W64) (x : Warp) : Prop :=
  ∀ L, L < 32 → x.pcOf L = if laneBit it.act L then dest L else if laneBit it.gang.cand L then it.gang.pc + 12 else it.wp.pcOf L

/-- Every lane that has not exited is active, and none waits: a meeting word executes at once, for all of them (R136). -/
def Issue.gathers (it : Issue) : Prop :=
  it.act = it.wp.live ∧ it.act ≠ 0 ∧ it.wp.meet = 0 ∧ it.wp.met = false ∧ it.wp.rep.active = false

/-- A meeting word leaves the warp as `w` but for its place, in `t`; its lanes stand `by_` past the word. -/
def Issue.met (it : Issue) (w : Warp) (by_ : W64) (t : State) : Prop :=
  ∃ y, it.ends it.s y t ∧ y.still = ({ w with meet := 0, hitch := 0 } : Warp).still ∧
    ∀ L, L < 32 → laneBit it.act L = true → y.pcOf L = it.gang.pc + by_

/-! Words of a driver and of an ostler -/

/-- A driver or an ostler issues a word with control fields `c`, no timed no-op (R64), and no waiting command runs instead (R228). -/
def State.drvRuns (s : State) (c : Ctl) (it : DIssue) : Prop := s.drvIssue = some it ∧ c.grd ≠ 0xF ∧ s.replay = none

/-- A driver of workgroup `g` issues such a word. -/
def State.wgRuns (s : State) (c : Ctl) (it : DIssue) (g : Workgroup) : Prop := s.drvRuns c it ∧ it.wg = some g

/-- A privileged stream issues such a word (R79). -/
def State.sysRuns (s : State) (c : Ctl) (it : DIssue) : Prop := s.drvRuns c it ∧ s.privileged = true

/-- `t` is `m` after a word of the stream: register `dst` holds `v` (d0 discards), the PC is `pc`, and the stream may issue again
after max(STL, 1) cycles; nothing else has changed. -/
def DIssue.leaves (it : DIssue) (m : State) (c : Ctl) (dst : Nat) (v pc : W64) (t : State) : Prop :=
  let ready := m.clock + max c.stl.toNat 1
  match it.wg with
  | some _ => t = m.modDrv it.core it.slot fun x =>
      { x with d := (if dst = 0 then x.d else x.d.set dst v), pc := pc, readyAt := ready, block := .none }
  | none => t = m.modOstler it.core fun x => { x with d := (if dst = 0 then x.d else x.d.set dst v), pc := pc, readyAt := ready }

/-- The stream waits in `b`, at the same word. -/
def DIssue.waits (it : DIssue) (b : DBlock) (t : State) : Prop :=
  t = it.s.modDrv it.core it.slot fun x => { x with block := b }

/-- The number of a d operand. -/
def dOf : Opnd → Nat
  | .dreg n => n.toNat
  | _ => 0

/-- A d operand's value (R22, R147): d0 reads 0, an immediate is sign-extended, class 5 is 0. -/
def DIssue.src (it : DIssue) : Opnd → W64
  | .dreg n => if n = 0 then 0 else it.d.getD n.toNat 0
  | .imm v => v.signExtend 64
  | _ => 0

/-- What the driver's arithmetic words compute (R148, R149): word, and result from its sources. -/
def drvWordOf : Instr → Option (Op3 × (W64 → W64 → W64))
  | .dadd o => some (o, fun a b => a + b)
  | .dsub o => some (o, fun a b => a - b)
  | .dmul o => some (o, fun a b => a * b)
  | .dmulh o => some (o, fun a b =>
      if o.var.getLsbD 0 then (a.signExtend 128 * b.signExtend 128).extractLsb' 64 64
      else (a.zeroExtend 128 * b.zeroExtend 128).extractLsb' 64 64)
  | .ddiv o => some (o, fun a b =>
      if b = 0 then (if o.var.getLsbD 1 then a else 0xFFFF_FFFF_FFFF_FFFF)
      else if o.var.getLsbD 0 then (if o.var.getLsbD 1 then a.srem b else a.sdiv b)
      else (if o.var.getLsbD 1 then a % b else a / b))
  | .dand o => some (o, fun a b => a &&& b)
  | .dor o => some (o, fun a b => a ||| b)
  | .dxor o => some (o, fun a b => a ^^^ b)
  | .dshl o => some (o, fun a b => a <<< b.toNat)
  | .dshr o => some (o, fun a b => a >>> b.toNat)
  | .dsar o => some (o, fun a b => a.sshiftRight b.toNat)
  | .dset o => some (o, fun a b =>
      let x : Int := if o.var.getLsbD 0 then a.toInt else (a.toNat : Int)
      let y : Int := if o.var.getLsbD 0 then b.toInt else (b.toNat : Int)
      if compared o.cond x y then 1 else 0)
  | .dhash o => some (o, fun a b =>
      if o.var = 1 then a ^^^ (a >>> 29) else (a ^^^ b).rotateLeft 27 * 0x9FB2_1C65_1E98_DF25)
  | .dbit o => some (o, fun a b =>
      if o.var = 0 then BitVec.ofNat 64 ((List.range 64).countP fun i => a.getLsbD i)
      else if o.var = 1 then BitVec.ofNat 64 (((List.range 64).find? fun k => a.getLsbD (63 - k)).getD 64)
      else if o.var = 2 then BitVec.ofNat 64 (((List.range 64).find? fun k => a.getLsbD k).getD 64)
      else
        let p := min (b.toNat % 256) 64
        let l := min (b.toNat / 256 % 256) (64 - p)
        if l = 0 then 0 else (a <<< (64 - p - l)) >>> (64 - l))
  | _ => none

/-- `m` is the state of the issue but for memory and its L2 record, and the L1 and the translations of the core. -/
def DIssue.onlyMem (it : DIssue) (m : State) : Prop :=
  ∃ (l1 : List L1Line) (tlb : List TlbEntry),
    m = { (it.s.modCore it.core fun co => { co with l1 := l1, tlb := tlb }) with
          mem := m.mem, poison := m.poison, l2 := m.l2, walks := m.walks, ruined := m.ruined, trims := m.trims, free := m.free }

/-- A global access of the stream that can be performed (R120, R151, R229, R249): aligned, translated, nowhere pinned, no register
block; and no reset holds it back. -/
def DIssue.reachesAt (it : DIssue) (o : Op3) (n : Nat) (need : Need) (pa : Nat) : Prop :=
  (it.src o.a + it.src o.b).toNat % n = 0 ∧ it.s.xlate it.core it.ctx (it.src o.a + it.src o.b).toNat need = .ok pa ∧
  it.s.holder it.core (lineOf pa) = none ∧ it.regs pa = none ∧
  (it.wg = none → it.heldBack = false)

/-- No byte of the access arrives poisoned (R253). -/
def DIssue.sound (it : DIssue) (o : Op3) (n pa : Nat) : Prop :=
  it.s.accPoison (it.access o) ((List.range n).map (pa + ·)) = false

/-- No published page frame has been stored to (R320), and a store to the given bytes hits none: its bytes are what is stored. -/
def State.offFrames (s : State) (c : Nat) (as : List (List Nat)) : Prop :=
  s.ruined = [] ∧ (as.length ≤ 1 ∨ s.img.dirn = 0 ∨
    ((∀ l ∈ (s.core c).l1, l.isDirty = false) ∧
     (∀ bs ∈ as, ∀ b ∈ bs, ¬ (s.img.dirbase ≤ b ∧ b < s.img.dirbase + 32 * s.img.dirn)) ∧
     ∀ bs ∈ as, s.publishedHit (bs.map fun b => (b, 0)) = []))

/-! Engine commands -/

/-- A command of the driver joins the open batch, after its effect has left `m`; the driver's registers are as they were, and its PC
is past the word. -/
def DIssue.joins (it : DIssue) (c : Ctl) (m : State) (q : Cmd) (t : State) : Prop :=
  ∃ h : Haz, h.batch = 16 ∧
    it.leaves (m.modWg it.core it.slot fun g => { g with open_ := g.open_ ++ [q], hazards := g.hazards ++ [h] }) c 0 0 (it.pc + 12) t

/-- Nothing of the core's engines is in flight or waits, no frame is in use, and no scratchpad word of the core is bad or written
over. -/
def DIssue.calm (it : DIssue) (g : Workgroup) : Prop :=
  it.s.replay = none ∧ it.s.hazardsOf it.core = [] ∧ it.s.frameHazards = [] ∧ (it.s.core it.core).badWords = [] ∧
  (it.s.core it.core).smear = [] ∧ g.hazards = [] ∧ ∀ q ∈ g.open_, ∀ r, q.pend ≠ .retry r

/-- The command, which names no tile, does what `run` says and joins the open batch with the status and DATA that it gives. -/
def DIssue.performs (it : DIssue) (c : Ctl) (cls : Nat) (pend : Pend) (run : State → State × Nat × Nat) (t : State) : Prop :=
  let r := run it.s.bump
  it.joins c r.1.bump { engine := cls, status := r.2.1, data := r.2.2, pend := pend } t

/-- `m` is the state of the issue but for memory and its L2 record, and the L1, the translations and the scratchpad of the core. -/
def DIssue.onlyStore (it : DIssue) (m : State) : Prop :=
  ∃ (l1 : List L1Line) (tlb : List TlbEntry) (sc : Memory),
    m = { (it.s.modCore it.core fun co => { co with l1 := l1, tlb := tlb, scratch := sc }) with
          mem := m.mem, poison := m.poison, l2 := m.l2, walks := m.walks, ruined := m.ruined, trims := m.trims, free := m.free }

/-- The state in which a copy reads its rows: every source line has been fetched. -/
def DIssue.fetched (it : DIssue) (a : Access) (src : Side) (len : Nat) : State :=
  if src.scratch then it.s else it.s.touchRead a (src.rows.flatMap fun r => src.cut r len .read)

/-- A copy that can be performed as it stands: nothing pinned, every page there and clean, source and destination apart. -/
def DIssue.copies (it : DIssue) (a : Access) (src dst : Side) (len : Nat) : Prop :=
  it.s.ruined = [] ∧
  it.s.touchPin a (copyTouches src dst len) = none ∧ it.s.touchFail a (copyTouches src dst len) = none ∧
  (src.scratch = dst.scratch →
    rangesMeet (src.ranges (it.fetched a src len) a len .read) (dst.ranges (it.fetched a src len) a len .write) = false)

/-- `t` is the state after the copy's word (R173, R174): its command has joined the open batch with status 0, and each destination
row has received its source row, in order. -/
def DIssue.copiedTo (it : DIssue) (g : Workgroup) (c : Ctl) (a : Access) (src dst : Side) (len : Nat) (t : State) : Prop :=
  let m0 := it.fetched a src len
  let data (k : Nat) : List Byte := src.bytes m0 a (src.rows.getD k 0) len
  ∃ m, it.onlyStore m ∧ it.joins c m { engine := 2, status := 0, data := 0, pend := .none } t ∧
    m = { ((List.range dst.rows.length).foldl (fun u k => dst.write u a (dst.rows.getD k 0) len (data k)) m0) with free := m.free } ∧
    (dst.scratch = true → ∀ p, m.scr it.core p = (Bytes.put (it.s.scr it.core)
      ((List.range dst.rows.length).flatMap fun k => ((List.range len).map (dst.rows.getD k 0 + ·)).zip (data k))) p) ∧
    (∀ r, dst.scratch = false → dst.rows = [r] → ∀ p, ¬ it.s.tracked g.vf p → m.devByte it.core p =
      (Bytes.put (it.s.devByte it.core) ((m0.touchBytes a (dst.cut r len .write)).zip (data 0))) p)

/-- A state without what a frame command may change besides the bytes of memory: the caches and translations of the cores, what
memory remembers of its lines, and the model's own counters. -/
def State.skeleton (s : State) : State :=
  { s with cores := s.cores.map fun co => { co with l1 := [], tlb := [] }
           mem := [], poison := [], l2 := [], walks := [], ruined := [], free := 0, frameDims := [], trims := [] }

/-- The system words (R79). -/
def sysOf : Instr → Option Op3
  | .swrite o | .rtt o | .ctxsave o | .ctxload o | .tlbinvPg o | .tlbinvVf o | .tlbinvAll o | .l2opWb o | .l2opInv o | .l2opWbi o
  | .l2opVfwb o | .halt o | .qclaim o | .wgstart o | .scrub o | .draint o | .pwrset o | .strset o | .gateNow o | .gateWake o
  | .gateHold o | .gateAuto o | .rtcallMeasure o | .rtcallVerify o | .rtcallQuote o | .rtcallMarginSignature o => some o
  | _ => none

/-- `m` is the state of the issue but for tile `d`, which is `t`, the A latch, and `n` passes more for the core's array to run. -/
def DIssue.setsTile (it : DIssue) (d : Nat) (t : Tile) (n : Nat) (m : State) : Prop :=
  ∃ latch : Core → Option Latch,
    m = { (it.s.modCore it.core fun co => { co with passes := co.passes + n, latch := latch co }).modWg it.core it.slot fun g =>
      { g with tiles := g.tiles.set d t } with free := m.free }

/-- The count of passes, since reset, with which a command of `n` passes that issues now has finished (R255, R256): the core's array
takes the commands in their order. -/
def DIssue.finishes (it : DIssue) (n : Nat) : Nat := (it.s.core it.core).passesRun + (it.s.core it.core).passes + n

/-- `m` is the state of the issue but for scratchpad bytes of the core: those of `bs` hold what it says, the last of an address
counting. -/
def DIssue.putsScratch (it : DIssue) (bs : List (Nat × Byte)) (m : State) : Prop :=
  (∃ sc : Memory, m = { it.s.modCore it.core fun co => { co with scratch := sc } with free := m.free }) ∧
  ∀ a, m.scr it.core a = (Bytes.put (it.s.scr it.core) bs) a

/-- Weight k of a column of bytes (R46 to R48): five trits of a byte, a nibble, a byte. -/
def weightOf (fmt : Nat) (bs : List Byte) (k : Nat) : Int :=
  if fmt = 0 then ((bs.getD (k / 5) 0).toNat / 3 ^ (k % 5) % 3 : Nat) - 1
  else if fmt = 1 then
    let n := (bs.getD (k / 2) 0).toNat / 16 ^ (k % 2) % 16
    if 8 ≤ n then (n : Int) - 16 else n
  else (bs.getD k 0).toInt

/-- A ternary column without a format error (R46, R47): every byte is below 243, and the trits past the 48th are zero. -/
def columnOk (fmt : Nat) (bs : List Byte) : Prop :=
  fmt = 0 → (∀ b ∈ bs, b.toNat < 243) ∧ ((bs.getD 9 0).toNat / 27 % 3 = 1 ∧ (bs.getD 9 0).toNat / 81 % 3 = 1)

end Sys2Proof.Machine
end

