-- ==== Sys2Proof/Certificates/Slice0/Obligations.lean ====
section
/-!
DEFINITION. The statements for the provers.
-/
open Sys2Proof Sys2Proof.Machine

/-! Encodings -/

/-- R62 to R80: every instruction that a word can hold, with every operand and field at every value that the encoding admits, is read
back from its word; what a word holds is the word's alone. -/
def Obligations.DecodeEncode : Prop :=
  ∀ i : Instr, i.wf = true → i.canonical = true → ∃ w, encode i = some w ∧ decode w = .ok i ∧ decodeBytes (leBytes 12 w.toNat) = .ok i

/-- R62 to R80: a word that is an instruction is that instruction's only word: no bit of it is ignored. -/
def Obligations.EncodeDecode : Prop := ∀ (w : W96) (i : Instr), decode w = .ok i → i.wf = true ∧ i.canonical = true ∧ encode i = some w

/-- R63, R65, R79: words of some instructions, written out from the encoding tables, and words that are none. -/
def Obligations.DecodeWords : Prop :=
  let c (stl : BitVec 4) : Ctl := { grd := 7, stl := stl, yld := 0, ru := 0 }
  decode 0x0000_1002_0000_4000_4007_960F = .ok (.lut3 ⟨c 4, 0x96, 0, 0, .vreg 4 .id, .vreg 1 .id, .vreg 2 .id⟩) ∧
  decode 0x0000_0600_0280_0100_0007_034A = .ok (.rep ⟨c 1, 3, 0, 0, .unused, .imm 4, .imm 2⟩) ∧
  decode 0x0000_0000_0000_0000_0007_0000 = .ok (.nop ⟨c 0, 0, 0, 0, .unused, .unused, .unused⟩) ∧
  decode 0x0000_0000_0000_0000_0017_0000 = .error .illegalField ∧ decode 0x0000_0000_0000_0000_0007_00FF = .error (.undefinedOpcode 0xFF)

/-! The warp stream: lane instructions -/

/-- R35, R98, R99: an integer word that runs and whose operands are in bounds completes; each active lane's D receives the result,
fitted by R35, the clamps set FSTAT.SAT, and no other register, flag, byte of memory or agent changes. -/
def Obligations.IntegerLanes : Prop :=
  ∀ (s : State) (i : Instr) (p : LaneWord) (it : Issue),
    intWord i = some p → i.wf = true → s.warpRuns p.o.ctl it → it.regTrap p.checked = none →
    ∃ t, exec i s = .next t ∧ it.writesV p.o.d (fun L => (p.args it L).1) (p.flags it) t

/-- R60, R101 to R106: the same of the floating-point words, with the modifiers of R78. What their results are in numbers,
`FloatRounding` says. -/
def Obligations.FloatLanes : Prop :=
  ∀ (s : State) (i : Instr) (p : LaneWord) (it : Issue),
    fltWord i = some p → i.wf = true → s.warpRuns p.o.ctl it → it.regTrap p.checked = none →
    ∃ t, exec i s = .next t ∧ it.writesV p.o.d (fun L => (p.args it L).1) (p.flags it) t

/-- R36 to R44, R60, R101: what the codes of the formats stand for, and what the floating-point words compute. A sum and a product are exact; a value is rounded once, to
the format's nearest, nearest to zero, least or greatest value by the mode; beyond the largest value it overflows as R37 and R42 say; the
other formats are exact in F32; a value becomes the integer to which it rounds, or the nearer limit. A reciprocal, a root and a
reciprocal root are those of the exact value, rounded once; the other functions have their special cases. -/
def Obligations.FloatRounding : Prop :=
  formats.map (fun f => (f.mb, f.eb, f.bias, f.nan)) =
    [(23, 8, 127, 0x7FC0_0000), (7, 8, 127, 0x7FC0), (10, 5, 15, 0x7E00), (3, 4, 7, 0x7F), (2, 5, 15, 0x7E)] ∧
  (∀ f ∈ formats, ∀ c, c < 2 ^ f.width → f.width = 1 + f.eb + f.mb ∧ f.maxCode = 2 ^ (f.width - 1) - (if f = fE4M3 then 2 else 2 ^ f.mb + 1) ∧
     let neg := decide (2 ^ (f.width - 1) ≤ c)
     let ex : Nat := c % 2 ^ (f.width - 1) / 2 ^ f.mb
     let fr : Nat := c % 2 ^ f.mb
     let special := if f = fE4M3 then ex = 15 ∧ fr = 7 else ex = 2 ^ f.eb - 1
     (special → f.decode c = if fr = 0 then .inf neg else .nan) ∧
     (¬ special → f.isFinite c ∧ ∀ K, 149 ≤ K → (f.decode c).times K =
       (if neg then -1 else 1) * (if ex = 0 then (fr : Int) * 2 ^ (K + 1 - f.bias - f.mb) else (2 ^ f.mb + fr : Int) * 2 ^ (K + ex - f.bias - f.mb)))) ∧
  (∀ f ∈ formats, ∀ (mode : Nat) (neg : Bool) (m : Nat) (e : Int) (K : Nat), mode < 4 → 0 ≤ e + K → 149 ≤ K →
     let r := f.round mode neg m e false
     let x := FVal.times K (.fin neg m e)
     let val (c : Nat) : Int := (f.decode c).times K
     let y := val r.code
     let top := val f.maxCode
     let ulp := top - val (f.maxCode - 1)
     (r.ovf = false → f.isFinite r.code ∧ r.code / 2 ^ (f.width - 1) = (if neg then 1 else 0) ∧
       (mode = 0 → ∀ c, f.isFinite c → (y - x).natAbs ≤ (val c - x).natAbs ∧
         (val c ≠ y → (val c - x).natAbs = (y - x).natAbs → r.code % 2 = 0)) ∧
       (mode = 1 → y.natAbs ≤ x.natAbs ∧ ∀ c, f.isFinite c → (val c).natAbs ≤ x.natAbs → (val c).natAbs ≤ y.natAbs) ∧
       (mode = 2 → x ≤ y ∧ ∀ c, f.isFinite c → x ≤ val c → y ≤ val c) ∧
       (mode = 3 → y ≤ x ∧ ∀ c, f.isFinite c → val c ≤ x → val c ≤ y) ∧
       (r.tiny = true ↔ x ≠ 0 ∧ x.natAbs < 2 ^ (K + 1 - f.bias) ∧ y ≠ x)) ∧
     (r.ovf = true ↔
       if mode = 0 then 2 * top + ulp < 2 * x.natAbs ∨ (f ≠ fE4M3 ∧ 2 * top + ulp = 2 * x.natAbs)
       else if (mode = 2 ∧ neg = false) ∨ (mode = 3 ∧ neg = true) then top < x.natAbs else top + ulp ≤ x.natAbs) ∧
     (r.ovf = true → r.tiny = false ∧ r.code = (if neg then 2 ^ (f.width - 1) else 0) +
       (if f = fE4M3 then 0x7E else if mode = 1 ∨ (mode = 2 ∧ neg = true) ∨ (mode = 3 ∧ neg = false) then f.maxCode else f.maxCode + 1)) ∧
     f.encode mode (.fin neg m e) = (r.code, (if r.ovf then (if f = fE4M3 then 0x20 else 0x02) else 0) ||| (if r.tiny then 0x04 else 0))) ∧
  (∀ f ∈ formats, ∀ (mode : Nat) (neg : Bool), f.encode mode .nan = (f.nan, 0) ∧ f.encode mode (.inf neg) =
     ((if neg then 2 ^ (f.width - 1) else 0) + (if f = fE4M3 then 0x7E else f.maxCode + 1), if f = fE4M3 then 0x20 else 0)) ∧
  (∀ f ∈ formats, ∀ c, c < 2 ^ f.width → ∀ K, 149 ≤ K →
     let neg := decide (2 ^ (f.width - 1) ≤ c)
     let w := (toF32 0 (f.decode c)).1
     (f.decode c = .nan → w = 0x7FC0_0000) ∧ (∀ n, f.decode c = .inf n → n = neg ∧ w = if neg then 0xFF80_0000 else 0x7F80_0000) ∧
     (f.isFinite c → (f32 w).times K = (f.decode c).times K ∧ w.msb = neg)) ∧
  (∀ (mode : Nat) (n n' : Bool) (m m' : Nat) (e e' : Int) (K : Nat), 0 ≤ e + K → 0 ≤ e' + K →
     let a : FVal := .fin n m e
     let b : FVal := .fin n' m' e'
     (FVal.add mode a b).2 = false ∧ (FVal.add mode a b).1.times K = a.times K + b.times K ∧
     (a.times K + b.times K = 0 → ∃ z k, (FVal.add mode a b).1 = .fin z 0 k ∧
       z = (if m = 0 ∧ m' = 0 ∧ n = n' then n else decide (mode = 3))) ∧
     (FVal.mul a b).2 = false ∧ (FVal.mul a b).1.times (2 * K) = a.times K * b.times K) ∧
  (∀ (mode : Nat) (n n' : Bool) (b : FVal),
     FVal.add mode .nan b = (.nan, false) ∧ FVal.add mode (.inf n) (.inf n') = (if n = n' then .inf n else .nan, decide (n ≠ n')) ∧
     FVal.mul .nan b = (.nan, false) ∧ FVal.mul (.inf n) (.inf n') = (.inf (n != n'), false) ∧
     ∀ m e, FVal.add mode (.inf n) (.fin n' m e) = (.inf n, false) ∧
       FVal.mul (.inf n) (.fin n' m e) = (if m = 0 then .nan else .inf (n != n'), decide (m = 0))) ∧
  (∀ (sg : Bool) (w mode : Nat), 0 < w → w ≤ 32 → mode < 4 →
     let lo : Int := if sg then -(2 ^ (w - 1) : Int) else 0
     let hi : Int := if sg then 2 ^ (w - 1) - 1 else 2 ^ w - 1
     floatToInt sg w mode .nan = (0, 0x01) ∧ (∀ n, floatToInt sg w mode (.inf n) = (if n then lo else hi, 0x01)) ∧
     ∀ (neg : Bool) (m : Nat) (e : Int) (K : Nat), 0 ≤ e + K → ∃ z, roundsTo mode (FVal.times K (.fin neg m e)) K z ∧
       floatToInt sg w mode (.fin neg m e) = if z < lo then (lo, 0x01) else if hi < z then (hi, 0x01) else (z, 0)) ∧
  (∀ (x : W32) (K : Nat), 149 ≤ K → fF32.isFinite x.toNat → (f32 x).times K ≠ 0 →
     let X := (f32 x).times K
     let val (c : Nat) : Int := (fF32.decode c).times K
     (x.msb = false → fF32.isFinite (fsqrtF 0 x).1.toNat ∧ let V := val (fsqrtF 0 x).1.toNat
       0 ≤ V ∧ ∀ c, fF32.isFinite c → 0 ≤ val c → (V < val c → 4 * X * 2 ^ K ≤ (V + val c) ^ 2) ∧
         (val c < V → (V + val c) ^ 2 ≤ 4 * X * 2 ^ K)) ∧
     (∀ mode, (mode = 1 ∨ mode = 3) → x.msb = false → let V := val (fsqrtF mode x).1.toNat
       0 ≤ V ∧ V ^ 2 ≤ X * 2 ^ K ∧ ∀ c, fF32.isFinite c → (val c) ^ 2 ≤ X * 2 ^ K → val c ≤ V) ∧
     (x.msb = false → let V := val (fsqrtF 2 x).1.toNat
       0 ≤ V ∧ X * 2 ^ K ≤ V ^ 2 ∧ ∀ c, fF32.isFinite c → 0 ≤ val c → X * 2 ^ K ≤ (val c) ^ 2 → V ≤ val c) ∧
     (x.msb = false → let V := val (frsqF x).1.toNat
       0 ≤ V ∧ ∀ c, fF32.isFinite c → 0 ≤ val c → (V < val c → 4 * 2 ^ (3 * K) ≤ (V + val c) ^ 2 * X) ∧
         (val c < V → (V + val c) ^ 2 * X ≤ 4 * 2 ^ (3 * K))) ∧
     (2 ^ (K + K) < 2 ^ (K + 128) * X.natAbs → let V := val (frcpF x).1.toNat
       (frcpF x).1.msb = x.msb ∧ ∀ c, fF32.isFinite c → (V * X - 2 ^ (K + K)).natAbs ≤ (val c * X - 2 ^ (K + K)).natAbs)) ∧
  (∀ (z : Bool) (mode : Nat), let s : W32 := if z then 0x8000_0000 else 0
     let inf : W32 := if z then 0xFF80_0000 else 0x7F80_0000
     frcpF s = (inf, 0x10) ∧ frcpF inf = (s, 0) ∧ frsqF s = (inf, 0x10) ∧ fsqrtF mode s = (s, 0) ∧ flog2F s = (0xFF80_0000, 0x10) ∧
     fsinF s = (s, 0) ∧ fsinF inf = (0x7FC0_0000, 0x01) ∧ fcosF inf = (0x7FC0_0000, 0x01) ∧ fexp2F inf = (if z then 0 else inf, 0) ∧
     flog2F inf = (if z then 0x7FC0_0000 else inf, if z then 0x01 else 0) ∧ frsqF inf = (if z then 0x7FC0_0000 else 0, if z then 0x01 else 0) ∧
     fsqrtF mode inf = (if z then 0x7FC0_0000 else inf, if z then 0x01 else 0)) ∧
  ∀ x : W32, f32 x = .nan → ∀ mode, frcpF x = (0x7FC0_0000, 0) ∧ frsqF x = (0x7FC0_0000, 0) ∧ fsqrtF mode x = (0x7FC0_0000, 0) ∧
    fexp2F x = (0x7FC0_0000, 0) ∧ flog2F x = (0x7FC0_0000, 0) ∧ fsinF x = (0x7FC0_0000, 0) ∧ fcosF x = (0x7FC0_0000, 0)

/-- R100, R103, R110, R113: comparisons, votes and `plop` write predicate D in the active lanes, and change nothing else. -/
def Obligations.PredicateWords : Prop :=
  ∀ (s : State) (o : Op3) (it : Issue), s.warpRuns o.ctl it →
    ((Instr.isetp o).wf = true → it.regTrap [(1, o.a, 1), (2, o.b, 1)] = none →
      ∃ t, exec (.isetp o) s = .next t ∧
        it.writesP o.d (fun L => compared o.cond (asInt o.typ (it.src 1 o.a (typedImm o) 0 L))
          (asInt o.typ (it.src 2 o.b (typedImm o) 0 L))) t) ∧
    ((Instr.fsetp o).wf = true → it.regTrap [(1, o.a, 1), (2, o.b, 1)] = none →
      ∃ t, exec (.fsetp o) s = .next t ∧
        it.writesP o.d (fun L => fcompared o.cond (f32 (modA o (it.src 1 o.a .f32 0 L))) (f32 (modB o (it.src 2 o.b .f32 0 L)))) t) ∧
    ((Instr.plop o).wf = true →
      ∃ t, exec (.plop o) s = .next t ∧
        it.writesP o.d (fun L => o.var.getLsbD (2 * (predHolds it.wp o.a L).toNat + (predHolds it.wp o.b L).toNat)) t) ∧
    ((Instr.vote o).wf = true → o.var.toNat % 4 ≠ 3 →
      ∃ t, exec (.vote o) s = .next t ∧
        it.writesP o.d (fun _ =>
          let q (M : Nat) : Bool := predHolds it.wp o.a M != o.var.getLsbD 2
          let all := (lanesOf it.act).all q
          let some' := (lanesOf it.act).any q
          if o.var.toNat % 4 = 0 then all else if o.var.toNat % 4 = 1 then some' else all || !some') t)

/-- R100, R108: `sel`, `mov` and `movi` write D in the active lanes, and change nothing else. -/
def Obligations.MoveWords : Prop :=
  (∀ (s : State) (o : Op3) (it : Issue), s.warpRuns o.ctl it →
    ((Instr.sel o).wf = true → it.regTrap [(0, o.d, 1), (1, o.a, 1), (2, o.b, 1)] = none →
      ∃ t, exec (.sel o) s = .next t ∧
        it.writesV o.d (fun L => if predHolds it.wp (.pred (BitVec.ofNat 3 (o.xt.toNat % 8))) L != o.xtBit 3
          then it.src 1 o.a .sx 0 L else it.src 2 o.b .sx 0 L) 0 t) ∧
    ((Instr.mov o).wf = true → it.regTrap [(0, o.d, 1), (1, o.a, 1)] = none →
      (o.d.isDest = true → ∃ t, exec (.mov o) s = .next t ∧
        it.writesV o.d (fun L => if (match o.a with | .pred _ => true | _ => false) then (if predHolds it.wp o.a L then 1 else 0)
          else it.src 1 o.a .sx 0 L) 0 t) ∧
      (∀ n, o.d = .pred n → ∃ t, exec (.mov o) s = .next t ∧
        it.writesP o.d (fun L => if (match o.a with | .pred _ => true | _ => false) then predHolds it.wp o.a L
          else it.src 1 o.a .sx 0 L ≠ 0) t))) ∧
  (∀ (s : State) (o : OpL) (it : Issue), s.warpRuns o.ctl it → (Instr.movi o).wf = true → it.regTrap [(0, o.d, 1)] = none →
    ∃ t, exec (.movi o) s = .next t ∧ it.writesV o.d (fun _ => o.imm) 0 t)

/-- R39, R57, R107, R110 to R112: `vote.ballot`, `wred`, `wscan` and `qnt48` write D in the active lanes; integer reductions do not
depend on an order. Where the first active lane of a binary32 scan holds a NaN, it receives the canonical one, by log 50: the model's
reading of R39, where R57 and R112 say the lane's own value. -/
def Obligations.ReductionWords : Prop :=
  ∀ (s : State) (o : Op3) (it : Issue), s.warpRuns o.ctl it →
    ((Instr.vote o).wf = true → o.var.toNat % 4 = 3 → it.regTrap [(0, o.d, 1)] = none →
      ∃ t, exec (.vote o) s = .next t ∧
        it.writesV o.d (fun _ => maskOf fun M => laneBit it.act M && (predHolds it.wp o.a M != o.var.getLsbD 2)) 0 t) ∧
    ((Instr.wred o).wf = true → it.regTrap [(0, o.d, 1), (1, o.a, 1)] = none →
      ∃ t fl, exec (.wred o) s = .next t ∧
        it.writesV o.d (fun _ =>
          let x (M : Nat) : W32 := it.src 1 o.a (redImm o) 0 M
          if o.typ = 2 then (redTree o.cpol 2 ((List.range 32).map fun M => if laneBit it.act M then x M else redIdent o.cpol 2)).1
          else (lanesOf it.act).foldl (fun z M => redInt o.cpol o.typ z (x M)) (redUnit o.cpol o.typ)) fl t ∧
        (o.typ ≠ 2 → fl = 0)) ∧
    ((Instr.wscan o).wf = true → it.regTrap [(0, o.d, 1), (1, o.a, 1)] = none →
      ∃ t fl, exec (.wscan o) s = .next t ∧
        it.writesV o.d (scanned o.cpol o.typ (o.var.getLsbD 7) it.act fun M => it.src 1 o.a (redImm o) 0 M) fl t ∧
        (o.typ ≠ 2 → fl = 0)) ∧
    ((Instr.qnt48 o).wf = true → it.regTrap [(0, o.d, 1), (1, o.a, 2)] = none →
      ∃ t fl, exec (.qnt48 o) s = .next t ∧
        it.writesV o.d (fun L =>
          let q := q48 ((List.range 48).map fun k => it.src 1 o.a .sx (k / 32) (k % 32))
          let byte (k : Nat) : Nat := ((q.1.getD k 0) % 256).toNat
          if L ≤ 11 then BitVec.ofNat 32 (byte (4 * L) + 256 * byte (4 * L + 1) + 65536 * byte (4 * L + 2) + 16777216 * byte (4 * L + 3))
          else if L = 12 then BitVec.ofNat 32 q.2.1 else 0) fl t)

/-- R26, R27, R29, R109: `sread` of an unprivileged identifier writes the register's value to D; a read of TIME low fills TLATCH; the
clearing form clears FSTAT. An identifier from 0x80 up traps with PRIV; that it does so before any check of D is log 61's: the model's
choice. -/
def Obligations.SpecialReads : Prop :=
  (∀ (s : State) (o : Op3) (it : Issue) (id : BitVec 16), s.warpRuns o.ctl it → o.a = .imm id → 0x80 ≤ id.toNat →
    (Instr.sread o).wf = true → it.act ≠ 0 → exec (.sread o) s = .next (it.s.warpTrap it.core it.slot it.w { cls := .priv })) ∧
  ∀ (s : State) (o : Op3) (it : Issue), s.warpRuns o.ctl it → it.regTrap [(0, o.d, 1)] = none →
    (∀ id : BitVec 16, o.a = .imm id → id.toNat < 0x80 → (Instr.sread o).wf = true →
      ∃ t x, exec (.sread o) s = .next t ∧ it.ends it.s x t ∧ it.advanced x ∧ it.wrote o.d (it.sreg id.toNat) x ∧
        x.still = ({ it.wp with v := x.v, tlatch := (if id = 0x0B && it.act != 0 then BitVec.ofNat 32 (it.s.timeOf it.wg.vf / 2 ^ 32)
          else it.wp.tlatch) } : Warp).still) ∧
    ((Instr.sreadClr o).wf = true →
      ∃ t x, exec (.sreadClr o) s = .next t ∧ it.ends it.s x t ∧ it.advanced x ∧
        it.wrote o.d (fun _ => it.wp.fstat.zeroExtend 32) x ∧
        x.still = ({ it.wp with v := x.v, fstat := (if it.act = 0 then it.wp.fstat else 0) } : Warp).still) ∧
    (∀ L, L < 32 → it.sreg 0 L = BitVec.ofNat 32 L ∧ it.sreg 1 L = BitVec.ofNat 32 (L / 4) ∧ it.sreg 2 L = BitVec.ofNat 32 it.w ∧
      it.sreg 0x0A L = BitVec.ofNat 32 it.wp.role ∧ it.sreg 0x0C L = it.wp.tlatch ∧ it.sreg 0x0E L = BitVec.ofNat 32 s.clock ∧
      it.sreg 0x0F L = BitVec.ofNat 32 it.core ∧ it.sreg 0x10 L = BitVec.ofNat 32 (it.core / 4))

/-- R114, R115: `xset`, `xadd` and `xwin` write an index register or its window, and change nothing else. -/
def Obligations.IndexWords : Prop :=
  ∀ (s : State) (o : Op3) (it : Issue) (n : BitVec 3), s.warpRuns o.ctl it → o.d = .xreg n →
    ((Instr.xset o).wf = true → it.regTrap [(1, o.a, 1)] = none →
      ∃ t, exec (.xset o) s = .next t ∧ it.writesX n.toNat (fun L => (it.src 1 o.a .zx 0 L).setWidth 16) t) ∧
    ((Instr.xadd o).wf = true → it.regTrap [(1, o.a, 1)] = none →
      ∃ t, exec (.xadd o) s = .next t ∧
        it.writesX n.toNat (fun L => it.wp.xlane n.toNat L + (it.src 1 o.a .sx 0 L).setWidth 16) t) ∧
    (∀ base limit : BitVec 16, o.a = .imm base → o.b = .imm limit → (Instr.xwin o).wf = true →
      ∃ t x, exec (.xwin o) s = .next t ∧ it.ends it.s x t ∧ it.advanced x ∧
        x.still = ({ it.wp with win := (if it.act = 0 then it.wp.win else it.wp.win.set n.toNat (base.toNat, limit.toNat)) } : Warp).still)

/-- R74, R116, R117: `nop` only passes; `rep` with a count sets the rep state and goes to its subject; with count 0 it skips the
subject. -/
def Obligations.RepAndNop : Prop :=
  ∀ (s : State) (o : Op3) (it : Issue), s.warpRuns o.ctl it → it.wp.rep.active = false →
    ((Instr.nop o).wf = true → ∃ t, exec (.nop o) s = .next t ∧ it.passes t) ∧
    (∀ n st : BitVec 16, o.a = .imm n → o.b = .imm st → (Instr.rep o).wf = true →
      ∃ t x, exec (.rep o) s = .next t ∧ it.ends it.s x t ∧ x.still = it.wp.still ∧
        (n ≠ 0 →
          x.rep = ⟨true, n.toNat, n.toNat, st.toInt, o.var.setWidth 3, it.gang.leader⟩ ∧
          ∀ L, L < 32 → x.pcOf L = if laneBit it.gang.cand L then it.gang.pc + 12 else it.wp.pcOf L) ∧
        (n = 0 → x.rep.active = false ∧
          ∀ L, L < 32 → x.pcOf L = if laneBit it.gang.cand L then it.gang.pc + 24 else it.wp.pcOf L))

/-- R64: a warp word with GRD 1111 is a timed no-op: its candidate lanes advance, and nothing else changes.
R64: an active lane is a candidate lane whose guard holds: predicate GRD[2:0], complemented by GRD[3]; p7 always holds. -/
def Obligations.GuardsAndTimedNoOps : Prop :=
  (∀ (s : State) (i : Instr) (c : Ctl) (it : Issue),
     warpCtl i = some c → c.grd = 0xF → s.warpIssue c = some it → it.settled = true →
     ∃ t, exec i s = .next t ∧ it.passes t) ∧
  (∀ (s : State) (c : Ctl) (it : Issue), s.warpIssue c = some it → it.settled = true → it.wp.met = false →
     ∀ L, L < 32 →
       laneBit it.act L = (laneBit it.gang.cand L && !laneBit it.wp.meet L &&
         (predHolds it.wp (.pred (BitVec.ofNat 3 (c.grd.toNat % 8))) L != c.grd.getLsbD 3)))

/-- R67, R69: outside a `rep` sequence, a source reads the lane that its crossbar pattern names, an immediate by its type, and class
5 as zero. R18, R68, R117: an indexed operand names the register that the index register of the lane read says, past the word's
offset; in repetition j of a `rep` sequence a selected field names the register j strides on; and the check of an indexed operand passes
where in each lane read its registers lie in the window and below the declared count.
R14, R7, R375: a lane word whose operands run out of the declared registers traps with REG, D first, and changes nothing else:
the state is that of the trap. -/
def Obligations.OperandsAndBounds : Prop :=
  (∀ (s : State) (c : Ctl) (it : Issue), s.warpRuns c it → it.wp.rep.active = false →
     ∀ (i : Nat) (k : Imm) (L : Nat), 1 ≤ i → i ≤ 2 → L < 32 →
       (∀ (n : BitVec 8) (p : BitVec 5),
         it.src i (.vreg n .id) k 0 L = it.wp.lane n.toNat L ∧
         it.src i (.vreg n (.rot p)) k 0 L = it.wp.lane n.toNat ((L + p.toNat) % 32) ∧
         it.src i (.vreg n (.bc p)) k 0 L = it.wp.lane n.toNat p.toNat ∧
         it.src i (.vreg n (.bfly p)) k 0 L = it.wp.lane n.toNat (L ^^^ p.toNat) ∧
         it.src i (.vreg n (.mir p)) k 0 L = it.wp.lane n.toNat (L ^^^ (2 ^ p.toNat - 1)) ∧
         it.src i (.vreg n (.bcs p)) k 0 L = it.wp.lane n.toNat (L - L % 4 + p.toNat) ∧
         (∀ M, laneBit it.act M = true → M < 32 → (∀ N, N < M → laneBit it.act N = false) →
           it.src i (.vreg n .fa) k 0 L = it.wp.lane n.toNat M)) ∧
       (∀ v : W16, it.src i (.imm v) .sx 0 L = v.signExtend 32 ∧ it.src i (.imm v) .zx 0 L = v.zeroExtend 32 ∧
         it.src i (.imm v) .f32 0 L = v.zeroExtend 32 <<< 16 ∧ it.src i (.imm v) .bf2 0 L = v ++ v) ∧
       it.src i .zero k 0 L = 0) ∧
  (∀ (s : State) (c : Ctl) (it : Issue), s.warpRuns c it → ∀ (i : Nat), i ≤ 2 →
     let step : Int := if it.wp.rep.active = true ∧ it.wp.rep.mask.getLsbD i = true
       then ((it.wp.rep.count - it.wp.rep.left : Nat) : Int) * it.wp.rep.stride else 0
     ∀ (L : Nat), L < 32 →
       (∀ (n : BitVec 8) (x : Xbar), it.regNo i (.vreg n x) L = some (n.toNat + step) ∧
         ∀ (k : Imm) (j m : Nat), (n.toNat : Int) + step = m → it.src i (.vreg n x) k j L = it.wp.lane (m + j) (x.lane it.act L)) ∧
       (∀ (xn : BitVec 3) (off : BitVec 5) (x : Xbar),
         it.regNo i (.vidx xn off x) L = some ((it.wp.xlane xn.toNat L).toNat + off.toInt) ∧
         ∀ (k : Imm) (j m : Nat), ((it.wp.xlane xn.toNat (x.lane it.act L)).toNat : Int) + off.toInt = m →
           it.src i (.vidx xn off x) k j L = it.wp.lane (m + j) (x.lane it.act L))) ∧
  (∀ (s : State) (c : Ctl) (it : Issue), s.warpRuns c it → ∀ (i n : Nat) (xn : BitVec 3) (off : BitVec 5) (x : Xbar), i ≤ 2 →
     (∀ L, L < 32 → x.lane it.act L < 32) →
     (it.regTrap [(i, .vidx xn off x, n)] = none ↔ ∀ L j : Nat, L < 32 → laneBit it.act L = true → j < n →
       let m : Int := (it.wp.xlane xn.toNat (x.lane it.act L)).toNat + off.toInt + j
       let win := it.wp.win.getD xn.toNat (0, 0)
       (win.1 : Int) ≤ m ∧ m < win.2 ∧ m < it.wp.count)) ∧
  (∀ (s : State) (i : Instr) (p : LaneWord) (it : Issue) (r : TrapInfo),
     (intWord i = some p ∨ fltWord i = some p) → i.wf = true → s.warpRuns p.o.ctl it → it.regTrap p.checked = some r →
     r.cls = .reg ∧ exec i s = .next (it.s.warpTrap it.core it.slot it.w r))

/-! The warp stream: memory -/


/-- R76, R120, R123, R124: the register forms of the formats in memory; the lowest misaligned lane of an access traps with ALIGN, and
else the lowest lane without a translation with ADDR, and else one whose page is absent parks the warp on it; every lane that is
accessed has both. What the codes of the floating-point formats stand for, `FloatRounding` says. -/
def Obligations.FormatsAndLaneTraps : Prop :=
  (∀ n, n < 2 ^ 16 → loadReg 7 n 0 = (toF32 0 (fBF16.decode n)).1 ∧ loadReg 8 n 0 = (toF32 0 (fF16.decode n)).1) ∧
  (∀ n, n < 2 ^ 8 → loadReg 9 n 0 = (toF32 0 (fE4M3.decode n)).1 ∧ loadReg 10 n 0 = (toF32 0 (fE5M2.decode n)).1) ∧
  (∀ a : W32, loadReg 11 a.toNat 0 = a ∧ loadReg 12 a.toNat 0 = a ∧
    (storeNat 7 fun _ => a) = fBF16.encode 0 (f32 a) ∧ (storeNat 8 fun _ => a) = fF16.encode 0 (f32 a) ∧
    (storeNat 9 fun _ => a) = fE4M3.encode 0 (f32 a) ∧ (storeNat 10 fun _ => a) = fE5M2.encode 0 (f32 a) ∧
    (storeNat 11 fun _ => a) = (a.toNat, 0) ∧ (storeNat 12 fun _ => a) = (a.toNat, 0)) ∧
  (∀ (s : State) (o : Op3) (it : Issue) (page : Nat), s.warpRuns o.ctl it → it.wg.spec it.w = false →
    let parks (i : Instr) : Prop :=
      exec i s = .next (it.s.modWarp it.core it.slot it.w fun x => { x with block := .parked it.wg.vf page })
    (it.memReg o (fmtRegs o.typ) 2 = none →
      ((Instr.ld o).wf = true → it.globalLanes o (fmtBytes o.typ) .read = .error (.park page) → parks (.ld o)) ∧
      ((Instr.st o).wf = true → it.globalLanes o (fmtBytes o.typ) .write = .error (.park page) → parks (.st o))) ∧
    (it.memReg o (atomRegs o.aop o.typ) 2 = none → it.globalLanes o (fmtBytes o.typ) .rw = .error (.park page) →
      ((Instr.atom o).wf = true → parks (.atom o)) ∧ ((Instr.red o).wf = true → parks (.red o)))) ∧
  (∀ n, n < 2 ^ 8 → loadReg 0 n 0 = (BitVec.ofNat 8 n).signExtend 32 ∧ loadReg 1 n 0 = BitVec.ofNat 32 n) ∧
  (∀ n, n < 2 ^ 16 → loadReg 2 n 0 = (BitVec.ofNat 16 n).signExtend 32 ∧ loadReg 3 n 0 = BitVec.ofNat 32 n) ∧
  (∀ (a b c d : W32),
    loadReg 4 a.toNat 0 = a ∧ (storeNat 4 fun _ => a) = (a.toNat, 0) ∧
    (∀ j, j < 2 → loadReg 5 (b ++ a : W64).toNat j = if j = 0 then a else b) ∧
    (storeNat 5 fun j => if j = 0 then a else b) = ((b ++ a : W64).toNat, 0) ∧
    (∀ j, j < 4 → loadReg 6 (d ++ c ++ b ++ a : BitVec 128).toNat j = [a, b, c, d].getD j 0) ∧
    (storeNat 6 fun j => [a, b, c, d].getD j 0) = ((d ++ c ++ b ++ a : BitVec 128).toNat, 0) ∧
    (storeNat 0 fun _ => a) = (a.toNat % 256, 0) ∧ (storeNat 1 fun _ => a) = (a.toNat % 256, 0) ∧
    (storeNat 2 fun _ => a) = (a.toNat % 65536, 0) ∧ (storeNat 3 fun _ => a) = (a.toNat % 65536, 0)) ∧
  (∀ (it : Issue) (o : Op3) (n : Nat) (need : Need), 0 < n →
    (∀ ls, it.globalLanes o n need = .ok ls →
      ∀ a ∈ ls, a.ea % n = 0 ∧ it.s.translate it.core it.wg.vf a.ea need = .ok a.pa) ∧
    (∀ L, laneBit it.act L = true → L < 32 → it.gaddr o L % n ≠ 0 →
      (∀ M, M < L → laneBit it.act M = true → it.gaddr o M % n = 0) →
      it.globalLanes o n need = .error (.trap { cls := .align, x := it.gaddr o L })) ∧
    (∀ L, laneBit it.act L = true → L < 32 → (∀ M, M < 32 → laneBit it.act M = true → it.gaddr o M % n = 0) →
      it.s.translate it.core it.wg.vf (it.gaddr o L) need = .error .addr →
      (∀ M, M < L → laneBit it.act M = true → it.s.translate it.core it.wg.vf (it.gaddr o M) need ≠ .error .addr) →
      it.globalLanes o n need = .error (.trap { cls := .addr, x := it.gaddr o L })) ∧
    (∀ L, laneBit it.act L = true → L < 32 → (∀ M, M < 32 → laneBit it.act M = true →
        it.gaddr o M % n = 0 ∧ it.s.translate it.core it.wg.vf (it.gaddr o M) need ≠ .error .addr) →
      it.s.translate it.core it.wg.vf (it.gaddr o L) need = .error .tran →
      (∀ M, M < L → laneBit it.act M = true → it.s.translate it.core it.wg.vf (it.gaddr o M) need ≠ .error .tran) →
      it.globalLanes o n need = .error (.park (it.gaddr o L / 65536 * 65536))))

/-- R119: each active lane, and no other, forms an address and accesses the bytes of its format there: in global memory at the sum of
register pair A and B modulo 2^64, in scratchpad at A plus B, or at B from the start of the object of a class 4 operand. -/
def Obligations.LaneAddresses : Prop :=
  ∀ (it : Issue) (o : Op3) (ls : List LaneAt),
    let n := fmtBytes o.typ
    let b (L : Nat) : W64 := (it.src 2 o.b .sx 0 L).signExtend 64
    (∀ need, it.globalLanes o n need = .ok ls →
      ls.map (·.lane) = lanesOf it.act ∧
      ∀ a ∈ ls, (a.bytes n).length = n ∧
        a.ea = ((it.src 1 o.a .raw 1 a.lane ++ it.src 1 o.a .raw 0 a.lane : W64) + b a.lane).toNat) ∧
    (∀ write, it.scrLanes o n write = .ok ls →
      ls.map (·.lane) = lanesOf it.act ∧
      ∀ a ∈ ls, (a.bytes n).length = n ∧
        (o.a.isSlot = false → a.ea = ((it.src 1 o.a .raw 0 a.lane).zeroExtend 64 + b a.lane).toNat ∧ a.pa = it.wg.winBase + a.ea) ∧
        ∀ k e base size rdo, o.a = .slot k → it.wg.slots.getD k.toNat .empty = .bound e base size rdo →
          a.ea = (b a.lane).toNat ∧ a.pa = base + a.ea)

/-- R123: `ld` and `lds` write the register forms of the lanes' bytes, lowest address first, to D; no byte of memory or scratchpad
changes, and no other register or flag. Where the own core holds a line dirty, a read at device scope reads those bytes by log 45: the
model's reading of R222, R228 and R233. -/
def Obligations.WarpLoads : Prop :=
  ∀ (s : State) (o : Op3) (it : Issue) (ls : List LaneAt), s.Mem → s.atRest → s.warpRuns o.ctl it → it.plain →
    ((Instr.ld o).wf = true → it.memReg o (fmtRegs o.typ) 2 = none → it.globalLanes o (fmtBytes o.typ) .read = .ok ls →
      (∀ a ∈ ls, (it.s.holder it.core (lineOf a.pa) = none ∨ (o.scope < 2 ∧ ((s.core it.core).l1At (lineOf a.pa)).isSome = true)) ∧
        it.s.accPoison (it.access o) (a.bytes (fmtBytes o.typ)) = false) → s.frameHazards = [] →
      ∃ t x m, exec (.ld o) s = .next t ∧ it.ends m x t ∧ it.advanced x ∧
        it.wroteRegs o.d (fmtRegs o.typ) (fun j L =>
          loadReg o.typ (laneVal (ls.map fun a => (a.lane, leNat ((a.bytes (fmtBytes o.typ)).map (it.s.accByte (it.access o))))) L) j) x ∧
        x.still = { it.wp with v := x.v }.still ∧ it.onlyMem m ∧ ∀ pa, m.devByte it.core pa = s.devByte it.core pa) ∧
    ((Instr.lds o).wf = true → it.memReg o (fmtRegs o.typ) 1 = none → it.scrLanes o (fmtBytes o.typ) false = .ok ls →
      it.s.hazardsOf it.core = [] → (s.core it.core).badWords = [] → (s.core it.core).smear = [] →
      ∃ t x, exec (.lds o) s = .next t ∧ it.ends it.s x t ∧ it.advanced x ∧
        it.wroteRegs o.d (fmtRegs o.typ) (fun j L =>
          loadReg o.typ (laneVal (ls.map fun a => (a.lane, leNat ((a.bytes (fmtBytes o.typ)).map (s.scr it.core)))) L) j) x ∧
        x.still = { it.wp with v := x.v }.still)

/-- R124: `st` and `sts` write each active lane's register form at its address; where lanes store to one byte, the highest lane's
stays. No other byte changes but those of a dirty map (R340), and no register; the flags are those of the conversions. -/
def Obligations.WarpStores : Prop :=
  ∀ (s : State) (o : Op3) (it : Issue) (ls : List LaneAt), s.Mem → s.atRest → s.warpRuns o.ctl it → it.plain →
    let n := fmtBytes o.typ
    let cells := (ls.map fun a => (a.bytes n).zip (leBytes n (storeNat o.typ fun j => it.src 0 o.d .raw j a.lane).1)).flatten
    let flags := ls.foldl (fun (z : Byte) a => z ||| (storeNat o.typ fun j => it.src 0 o.d .raw j a.lane).2) 0
    ((Instr.st o).wf = true → it.memReg o (fmtRegs o.typ) 2 = none → it.globalLanes o n .write = .ok ls →
      (∀ a ∈ ls, it.s.holder it.core (lineOf a.pa) = none) → s.frameHazards = [] →
      ∃ t x m, exec (.st o) s = .next t ∧ it.ends m x t ∧ it.advanced x ∧
        x.still = { it.wp with fstat := it.wp.fstat ||| flags }.still ∧ it.onlyMem m ∧
        ∀ pa, ¬ s.tracked it.wg.vf pa → m.devByte it.core pa = (Bytes.put (s.devByte it.core) cells) pa) ∧
    ((Instr.sts o).wf = true → it.memReg o (fmtRegs o.typ) 1 = none → it.scrLanes o n true = .ok ls →
      it.s.hazardsOf it.core = [] → (s.core it.core).badWords = [] →
      ∃ t x m, exec (.sts o) s = .next t ∧ it.ends m x t ∧ it.advanced x ∧
        x.still = { it.wp with fstat := it.wp.fstat ||| flags }.still ∧ it.onlyScratch m ∧
        ∀ a, m.scr it.core a = (Bytes.put (s.scr it.core) cells) a)

/-- R125, R126: `atom`, `red` and `atoms` update each active lane's element, in ascending lane order; `atom` and `atoms` return the
old values. Below device scope, the one active lane of an `atom` or `red` updates its element as its core reads it. The table of R126
gives the new value. Where the own core holds a line dirty, an atomic at device scope reads those bytes by log 45: the model's reading
of R222, R228 and R233. -/
def Obligations.WarpAtomics : Prop :=
  (∀ (sgn : Bool) (w old x y : Nat), (w = 32 ∨ w = 64) → old < 2 ^ w → x < 2 ^ w → y < 2 ^ w →
     let key (v : Nat) : Int := if sgn then (BitVec.ofNat w v).toInt else v
     let new (op : Nat) : Nat := atomicNew op sgn w old x y
     new 0 = (old + x) % 2 ^ w ∧ (new 1 = old ∨ new 1 = x) ∧ key (new 1) = min (key old) (key x) ∧
     (new 2 = old ∨ new 2 = x) ∧ key (new 2) = max (key old) (key x) ∧
     (∀ i, (new 3).testBit i = (old.testBit i && x.testBit i) ∧ (new 4).testBit i = (old.testBit i || x.testBit i) ∧
       (new 5).testBit i = (old.testBit i != x.testBit i)) ∧
     new 6 = x ∧ new 7 = (if old = x then y else old)) ∧
  (∀ (sgn : Bool) (old x y : Nat), old < 2 ^ 32 → x < 2 ^ 32 →
     let new (op : Nat) : Nat := atomicNew op sgn 32 old x y
     let half (a b : Nat) : Nat := (fBF16.encode 0 (FVal.add 0 (fBF16.decode a) (fBF16.decode b)).1).1
     new 8 = (fF32.encode 0 (FVal.add 0 (fF32.decode old) (fF32.decode x)).1).1 ∧
     new 9 = half (old % 65536) (x % 65536) + 65536 * half (old / 65536) (x / 65536) ∧
     new 10 = (if x ≤ old then 0 else old + 1) ∧ new 11 = (if old = 0 ∨ x < old then x else old - 1)) ∧
  (∀ (s : State) (o : Op3) (it : Issue) (ls : List LaneAt), s.Mem → s.atRest → s.warpRuns o.ctl it → it.plain →
     let n := fmtBytes o.typ
     let stays (v : Bool) (x : Warp) : Prop := x.still =
       ({ it.wp with v := (if v then x.v else it.wp.v), fullsv := (it.wp.fullsv || it.act != 0) } : Warp).still
     let olds (z : Bytes × List (Nat × Nat)) (x : Warp) : Prop :=
       it.wroteRegs o.d (fmtRegs o.typ) (fun j L => BitVec.ofNat 32 (laneVal z.2 L / 2 ^ (32 * j))) x
     (it.memReg o (atomRegs o.aop o.typ) 2 = none → it.globalLanes o n .rw = .ok ls → 2 ≤ o.scope →
       (∀ a ∈ ls, it.s.holder it.core (lineOf a.pa) = none) → s.frameHazards = [] → s.offFrames it.core (ls.map (·.bytes n)) →
       ((Instr.atom o).wf = true → (∀ a ∈ ls, it.s.accPoison (it.access o) (a.bytes n) = false) → ∃ t x m, exec (.atom o) s = .next t ∧ it.ends m x t ∧ it.advanced x ∧
         olds (it.atomics o (s.devByte it.core) ls) x ∧ stays true x ∧ it.onlyMem m ∧
         ∀ pa, ¬ s.tracked it.wg.vf pa → m.devByte it.core pa = (it.atomics o (s.devByte it.core) ls).1 pa) ∧
       ((Instr.red o).wf = true → ∃ t x m, exec (.red o) s = .next t ∧ it.ends m x t ∧ it.advanced x ∧
         stays false x ∧ it.onlyMem m ∧
         ∀ pa, ¬ s.tracked it.wg.vf pa → m.devByte it.core pa = (it.atomics o (s.devByte it.core) ls).1 pa)) ∧
     ((Instr.atoms o).wf = true → it.memReg o (atomRegs o.aop o.typ) 1 = none → it.scrLanes o n true = .ok ls →
       it.s.hazardsOf it.core = [] → (s.core it.core).badWords = [] → (s.core it.core).smear = [] →
       ∃ t x m, exec (.atoms o) s = .next t ∧ it.ends m x t ∧ it.advanced x ∧
         olds (it.atomics o (s.scr it.core) ls) x ∧ stays true x ∧ it.onlyScratch m ∧
         ∀ a, m.scr it.core a = (it.atomics o (s.scr it.core) ls).1 a)) ∧
  (∀ (s : State) (o : Op3) (it : Issue) (a : LaneAt), s.Mem → s.atRest → s.warpRuns o.ctl it → it.plain → o.scope < 2 →
     it.memReg o (atomRegs o.aop o.typ) 2 = none → it.globalLanes o (fmtBytes o.typ) .rw = .ok [a] →
     it.s.holder it.core (lineOf a.pa) = none → s.frameHazards = [] → s.ruined = [] →
     let n := fmtBytes o.typ
     let old := leNat ((a.bytes n).map (s.l1Byte it.core))
     let new := atomicNew o.aop o.sgn (8 * n) old (it.atomData o a.lane).1 (it.atomData o a.lane).2
     let after := Bytes.put (s.devByte it.core) ((a.bytes n).zip (leBytes n new))
     ((Instr.atom o).wf = true → it.s.accPoison (it.access o) (a.bytes n) = false →
       ∃ t x m, exec (.atom o) s = .next t ∧ it.ends m x t ∧ it.advanced x ∧ it.onlyMem m ∧
       it.wroteRegs o.d (fmtRegs o.typ) (fun j _ => BitVec.ofNat 32 (old / 2 ^ (32 * j))) x ∧
       x.still = { it.wp with v := x.v, fullsv := true }.still ∧
       ∀ pa, ¬ s.tracked it.wg.vf pa → m.devByte it.core pa = after pa) ∧
     ((Instr.red o).wf = true → ∃ t x m, exec (.red o) s = .next t ∧ it.ends m x t ∧ it.advanced x ∧ it.onlyMem m ∧
       x.still = { it.wp with fullsv := true }.still ∧
       ∀ pa, ¬ s.tracked it.wg.vf pa → m.devByte it.core pa = after pa))

/-- R146, R232: a global store of a speculative leg changes no byte of memory, of a cache or of scratchpad: it stands last in the
leg's buffer. -/
def Obligations.SpeculativeStores : Prop :=
  ∀ (s : State) (o : Op3) (it : Issue) (ls : List LaneAt) (r : Relay) (p : Nat), s.warpRuns o.ctl it → (Instr.st o).wf = true →
    it.specLeg = some (r, p) → p < r.legs.length → it.memReg o (fmtRegs o.typ) 2 = none →
    it.globalLanes o (fmtBytes o.typ) .write = .ok ls → it.act ≠ 0 → ¬ (o.rnd = 1 ∧ 2 ≤ o.scope) →
    let n := fmtBytes o.typ
    let cells := (ls.map fun a => (a.bytes n).zip (leBytes n (storeNat o.typ fun j => it.src 0 o.d .raw j a.lane).1)).flatten
    (((r.leg p).buf.flatMap fun b => taggedLines b.scratch (b.bytes.map (·.1))) ++ taggedLines false (cells.map (·.1))).eraseDups.length
      ≤ 64 →
    ∃ t g q b, exec (.st o) s = .next t ∧ t.mem = s.mem ∧
      (∀ c, (t.core c).l1 = (s.core c).l1 ∧ (t.core c).scratch = (s.core c).scratch) ∧
      t.wg? it.core it.slot = some g ∧ g.relay = some q ∧ (q.leg p).buf = (r.leg p).buf ++ [b] ∧ b.bytes = cells ∧ b.scratch = false

/-- R127 to R130, R223: `fence`, `fencex`, `pref` and `cctl` change no register and no byte as the core reads it; after a fence at
device scope or wider no line of the core is dirty on a stream that it names, and every clean byte of L1 is that of L2. That the clean
bytes are so whatever stream they came on is log 8's: the model's reading of R223. -/
def Obligations.FencesAndHints : Prop :=
  ∀ (s : State) (o : Op3) (it : Issue), s.Mem → s.atRest → s.warpRuns o.ctl it → it.plain →
    let same (t : State) : Prop := ∃ x m, it.ends m x t ∧ it.advanced x ∧ x.still = it.wp.still ∧ it.onlyMem m ∧
      ∀ pa, m.devByte it.core pa = s.devByte it.core pa
    let fenced (rel : W16) (t : State) : Prop := it.act ≠ 0 → 2 ≤ o.scope → ∀ l ∈ (t.core it.core).l1,
      (l.isDirty = true → l.streams &&& rel = 0) ∧
      ∀ i, i < 64 → l.dirty.getLsbD i = false → l.data.getD i 0 = t.mem.read (64 * l.line + i)
    ((Instr.fence o).wf = true → ∃ t, exec (.fence o) s = .next t ∧ same t ∧
      fenced (BitVec.ofNat 16 (immNat o.b) ||| BitVec.ofNat 16 (2 ^ o.sid.toNat)) t) ∧
    ((Instr.fencex o).wf = true → ∃ t, exec (.fencex o) s = .next t ∧ same t ∧ fenced (BitVec.ofNat 16 (immNat o.a)) t) ∧
    ((Instr.pref o).wf = true → ∃ t, exec (.pref o) s = .next t ∧ same t) ∧
    ((Instr.pref o).wf = true → it.regTrap [(1, o.a, 2), (2, o.b, 1)] ≠ none → ∃ t, exec (.pref o) s = .next t ∧ it.passes t) ∧
    (it.regTrap [(1, o.a, 2), (2, o.b, 1)] = none → (Instr.cctl o).wf = true → ∃ t, exec (.cctl o) s = .next t ∧ same t)

/-- R131: `dqpop` takes the entry at the warp's head into the D pair, for every active lane, and advances the head; where the warp's head
has come to the tail, its gang waits at the word. -/
def Obligations.QueuePop : Prop :=
  (∀ (s : State) (o : Op3) (it : Issue), s.warpRuns o.ctl it → (Instr.dqpop o).wf = true → it.plain →
    it.regTrap [(0, o.d, 2)] = none → it.act ≠ 0 → it.wp.head = it.wg.dqTail →
    exec (.dqpop o) s = .next ((it.s.modWarp it.core it.slot it.w fun w => { w with
      waits := { leader := it.gang.leader, held := true, kind := .dqpop } :: w.waits.filter fun q => q.leader != it.gang.leader }).settle
        it.core it.slot)) ∧
  ∀ (s : State) (o : Op3) (it : Issue) (e : W64), s.warpRuns o.ctl it → (Instr.dqpop o).wf = true → it.plain →
    it.regTrap [(0, o.d, 2)] = none → it.act ≠ 0 → it.wp.head ≠ it.wg.dqTail →
    it.wg.dq[it.wp.head - it.wg.dqFirst]? = some e →
    ∃ t x m, exec (.dqpop o) s = .next t ∧ it.ends it.s x m ∧ it.advanced x ∧
      t = (m.modWg it.core it.slot fun g => g.retire).settle it.core it.slot ∧
      it.wroteRegs o.d 2 (fun j _ => if j = 0 then e.setWidth 32 else (e >>> 32).setWidth 32) x ∧
      x.still = { it.wp with v := x.v, head := it.wp.head + 1, fullsv := true }.still

/-! The warp stream: control -/

/-- R133, R134: branches. Active lanes stand at the target, the other candidate lanes past the word; `call` leaves the address of
the next word in its link pair; a target of `brx` or `ret` that is no multiple of 4 traps with ALIGN.
R135: `exit` ends its active lanes; with the last lane of the warp, the warp has exited. -/
def Obligations.Branches : Prop :=
  (∀ (s : State) (o : Op3) (it : Issue), s.warpRuns o.ctl it → (Instr.exit o).wf = true → it.act ≠ 0 →
    it.wg.legOf it.w = none → it.wp.rep.active = false →
    ∃ t x m, exec (.exit o) s = .next t ∧ it.ends it.s x m ∧ t = m.afterExit it.core it.slot it.w ∧
      x.still = ({ it.wp with exited := it.wp.exited ||| it.act,
                              fullsv := (it.wp.fullsv || it.wp.exited ||| it.act != BitVec.allOnes 32) } : Warp).still ∧
      it.went (fun _ => it.gang.pc) x) ∧
  (∀ (s : State) (o : OpL) (it : Issue), s.warpRuns o.ctl it → it.wp.rep.active = false →
    let target : W64 := it.gang.pc + 12 * o.imm.signExtend 64
    ((Instr.bra o).wf = true → ∃ t x, exec (.bra o) s = .next t ∧ it.ends it.s x t ∧ it.went (fun _ => target) x ∧
      x.still = it.wp.still) ∧
    ((Instr.bru o).wf = true → (it.act = 0 ∨ it.act = it.gang.cand) →
      ∃ t x, exec (.bru o) s = .next t ∧ it.ends it.s x t ∧ it.went (fun _ => target) x ∧ x.still = it.wp.still) ∧
    ((Instr.bru o).wf = true → it.act ≠ 0 → it.act ≠ it.gang.cand → it.wp.unifx = true →
      exec (.bru o) s = .next (it.s.warpTrap it.core it.slot it.w { cls := .unif })) ∧
    ((Instr.bru o).wf = true → it.act ≠ 0 → it.act ≠ it.gang.cand → it.wp.unifx = false →
      ∃ t x, exec (.bru o) s = .next t ∧ it.ends it.s x t ∧ x.still = { it.wp with fstat := it.wp.fstat ||| 0x40 }.still ∧
        ∀ M, M < 32 → laneBit it.gang.cand M = true → (∀ L, L < M → laneBit it.gang.cand L = false) →
          ∀ L, L < 32 → x.pcOf L = if laneBit it.gang.cand L then (if laneBit it.act M then target else it.gang.pc + 12)
            else it.wp.pcOf L) ∧
    ((Instr.call o).wf = true → it.regTrap [(3, .vreg (BitVec.ofNat 8 o.xt.toNat) .id, 2)] = none →
      ∃ t x, exec (.call o) s = .next t ∧ it.ends it.s x t ∧ it.went (fun _ => target) x ∧
        (∀ n L, L < 32 → x.lane n L =
          if laneBit it.act L && n == o.xt.toNat then (it.gang.pc + 12).setWidth 32
          else if laneBit it.act L && n == o.xt.toNat + 1 then ((it.gang.pc + 12) >>> 32).setWidth 32
          else it.wp.lane n L) ∧
        x.still = { it.wp with v := x.v }.still)) ∧
  (∀ (s : State) (o : Op3) (it : Issue), s.warpRuns o.ctl it → it.wp.rep.active = false → it.regTrap [(1, o.a, 2)] = none →
    let dest (L : Nat) : W64 := it.src 1 o.a .raw 1 L ++ it.src 1 o.a .raw 0 L
    ((∀ L, L < 32 → laneBit it.act L = true → (dest L).toNat % 4 = 0) →
      ((Instr.brx o).wf = true → ∃ t x, exec (.brx o) s = .next t ∧ it.ends it.s x t ∧ it.went dest x ∧ x.still = it.wp.still) ∧
      ((Instr.ret o).wf = true → ∃ t x, exec (.ret o) s = .next t ∧ it.ends it.s x t ∧ it.went dest x ∧ x.still = it.wp.still)) ∧
    (∀ L, L < 32 → laneBit it.act L = true → (dest L).toNat % 4 ≠ 0 →
      (∀ M, M < L → laneBit it.act M = true → (dest M).toNat % 4 = 0) →
      let traps := .next (it.s.warpTrap it.core it.slot it.w { cls := .align, x := (dest L).toNat })
      ((Instr.brx o).wf = true → exec (.brx o) s = traps) ∧ ((Instr.ret o).wf = true → exec (.ret o) s = traps)))

/-- R136 to R139, R142: a meeting word at which every lane of the warp stands executes once. `hitch` passes; `bar` arrives and
waits, `bar.arv` arrives and passes; `role` and, with no relay, `rjoin` wait. A warp that has arrived in the phase waits to arrive again.
R136: where all lanes wait, but not at one word, those at the lowest `hitch` go on past it; with none at a `hitch`, the warp traps with
UNIF.
R23, R138: an arrival that is not the last counts; the last flips the phase, every waiting warp and a waiting driver go on past their
words, and the arrival of a warp that has arrived before is counted in the new phase. -/
def Obligations.MeetingWordsAndBarriers : Prop :=
  (∀ (s : State) (o : Op3) (it : Issue) (i : Instr), s.warpRuns o.ctl it → it.wp.met = false → it.wp.rep.active = false → i.wf = true →
     i ∈ [.hitch o, .bar o, .barArv o, .role o, .rfirst o, .rjoin o, .racc o, .rsigGuessed o] →
     let hitched (L : Nat) : Bool := laneBit it.wp.hitch L || (i == .hitch o && laneBit it.act L)
     (∀ L, L < 32 → laneBit it.wp.live L = true → (laneBit it.wp.meet L || laneBit it.act L) = true) →
     (∃ L M, L < 32 ∧ M < 32 ∧ laneBit it.wp.live L = true ∧ laneBit it.wp.live M = true ∧ it.wp.pcOf L ≠ it.wp.pcOf M) →
     (∀ L, L < 32 → hitched L = true → laneBit it.wp.live L = true) →
     (∀ H, H < 32 → hitched H = true → (∀ M, M < 32 → hitched M = true → (it.wp.pcOf H).toNat ≤ (it.wp.pcOf M).toNat) →
       ∃ t x, exec i s = .next t ∧ it.ends it.s x t ∧
         x.still = { it.wp with meet := x.meet, hitch := x.hitch }.still ∧
         ∀ L, L < 32 → laneBit it.wp.live L = true →
           let freed := hitched L && it.wp.pcOf L == it.wp.pcOf H
           x.pcOf L = (if freed then it.wp.pcOf L + 12 else it.wp.pcOf L) ∧ laneBit x.meet L = !freed) ∧
     ((∀ L, L < 32 → hitched L = false) →
       ∃ t u x, exec i s = .next t ∧ it.ends it.s x u ∧
         x.still = { it.wp with meet := it.wp.meet ||| it.act, hitch := x.hitch }.still ∧ (∀ L, L < 32 → x.pcOf L = it.wp.pcOf L) ∧
         t = u.warpTrap it.core it.slot it.w { cls := .unif })) ∧
  (∀ (s : State) (o : Op3) (it : Issue), s.warpRuns o.ctl it → it.gathers → it.plain →
     (it.wg.bars.getD (immNat o.a) default).declared = true → it.wg.hasArrived (immNat o.a) it.w = true →
     ((Instr.bar o).wf = true → ∃ t, exec (.bar o) s = .next t ∧
       it.met { it.wp with block := .barAgain (immNat o.a) false, fullsv := true } 0 t) ∧
     ((Instr.barArv o).wf = true → ∃ t, exec (.barArv o) s = .next t ∧
       it.met { it.wp with block := .barAgain (immNat o.a) true, fullsv := true } 0 t)) ∧
  (∀ (s : State) (o : Op3) (it : Issue), s.warpRuns o.ctl it → it.gathers →
     ((Instr.hitch o).wf = true → ∃ t, exec (.hitch o) s = .next t ∧ it.met { it.wp with block := .none } 12 t) ∧
     (it.plain → (it.wg.bars.getD (immNat o.a) default).declared = true → it.wg.hasArrived (immNat o.a) it.w = false →
       ((Instr.bar o).wf = true → ∃ t m, exec (.bar o) s = .next t ∧
         it.met { it.wp with block := .bar (immNat o.a), fullsv := true } 0 m ∧
         t = m.modWg it.core it.slot fun g => g.arrive s.clock (immNat o.a) it.w) ∧
       ((Instr.barArv o).wf = true → ∃ t m, exec (.barArv o) s = .next t ∧
         it.met { it.wp with block := .none, fullsv := true } 12 m ∧
         t = m.modWg it.core it.slot fun g => g.arrive s.clock (immNat o.a) it.w)) ∧
     ((Instr.role o).wf = true → (it.wg.hdr.roles.getD (immNat o.a) default).decl = true →
       ∃ t m, exec (.role o) s = .next t ∧ it.met { it.wp with block := .role (immNat o.a), fullsv := true } 0 m ∧
         t = m.settle it.core it.slot) ∧
     ((Instr.rjoin o).wf = true → it.wg.relay = none →
       ∃ t, exec (.rjoin o) s = .next t ∧ it.met { it.wp with block := .rjoin, fullsv := true } 0 t) ∧
     (∀ r, (Instr.rjoin o).wf = true → it.wg.relay = some r → it.wg.legOf it.w = none →
       (it.w < r.width → ∃ t, exec (.rjoin o) s = .next t ∧ it.met { it.wp with block := .rjoin, fullsv := true } 0 t) ∧
       (r.width ≤ it.w → ∃ t, exec (.rjoin o) s = .next t ∧ it.met { it.wp with block := .none, fullsv := true } 12 t))) ∧
  (∀ (g : Workgroup) (clock b a : Nat) (x : Barrier), g.bars[b]? = some x → g.warps.length ≤ 16 →
     (x.arrivals + 1 < x.expected → g.arrive clock b a =
       { g with bars := g.bars.set b { x with arrivals := x.arrivals + 1, arrived := x.arrived ||| BitVec.ofNat 17 (2 ^ a) } }) ∧
     (∀ again : Option Nat, x.arrivals + 1 = x.expected → g.carried b = (match again with | none => 0 | some w => BitVec.ofNat 17 (2 ^ w)) →
       (∀ w, again = some w → w < g.warps.length ∧ 1 < x.expected - x.leaving) →
       (g.arrive clock b a).bars = g.bars.set b { x with
         arrivals := if again = none then 0 else 1, arrived := (match again with | none => 0 | some w => BitVec.ofNat 17 (2 ^ w))
         phase := !x.phase, leaving := 0, expected := x.expected - x.leaving } ∧
       (g.drv.block = .bar b → (g.arrive clock b a).drv =
         { g.drv with block := .none, pc := g.drv.pc + 12, readyAt := max g.drv.readyAt (clock + 1) }) ∧
       (g.drv.block ≠ .bar b → (g.arrive clock b a).drv = g.drv) ∧
       ∀ (w : Nat) (y : Warp), g.warps[w]? = some y →
         ∃ z, (g.arrive clock b a).warps[w]? = some z ∧
           (y.block = .bar b ∨ y.block = .barAgain b true → z.block = .none ∧ ∀ L, L < 32 → laneBit y.live L = true →
             (∀ M, M < 32 → laneBit y.live M = true → y.pcOf M = y.pcOf L) → z.pcOf L = y.pcOf L + 12) ∧
           (y.block = .barAgain b false → z = { y with block := .bar b }) ∧
           (y.block ≠ .bar b → (∀ c, y.block ≠ .barAgain b c) → z = y)))

/-- R143 to R145: the words of relay legs, and `rfirst`. -/
def Obligations.RelayLegWords : Prop :=
  ∀ (s : State) (o : Op3) (it : Issue), s.warpRuns o.ctl it →
    (∀ r p, it.wg.legOf it.w = some (r, p) → it.gathers →
      ((Instr.rsigGuessed o).wf = true → (r.leg p).state = .guessing → ∃ t m, exec (.rsigGuessed o) s = .next t ∧
        it.met { it.wp with block := .guessed, fullsv := true } 0 m ∧
        t = (m.modLegOf it fun l => { l with state := .guessed, guess := some (r.carryOf it.wp) }).relayCheck it.core it.slot) ∧
      ((Instr.racc o).wf = true → (r.leg p).state = .body → (o.var = 1 → it.regTrap [(2, o.b, 1)] = none) →
        ∃ t m, exec (.racc o) s = .next t ∧ it.met { it.wp with block := .racc, fullsv := true } 0 m ∧
          ∃ same : Bool, (same = true ↔ ∃ gs, (r.leg (p + 1)).guess = some gs ∧
              ∀ L k, L < 32 → laneBit it.wp.live L = true → k < r.ccnt →
                raccMatch o.var.toNat (it.src 2 o.b .zx 0 L) (immNat o.b) (((r.carryOf it.wp).getD k []).getD L 0)
                  ((gs.getD k []).getD L 0) = true) ∧
            t = (m.modLegOf it fun l => { l with state := .racc, out := r.carryOf it.wp, matched := same }).decide it.core it.slot)) ∧
    (∀ r p, it.wg.legOf it.w = some (r, p) → (Instr.rsigExit o).wf = true → (r.leg p).state = .body → it.act ≠ 0 →
      ∃ t x m, exec (.rsigExit o) s = .next t ∧ it.ends it.s x m ∧ it.advanced x ∧
        x.still = { it.wp with fullsv := true }.still ∧ t = m.modLegOf it fun l => { l with exitMark := true }) ∧
    ((Instr.rfirst o).wf = true → it.gathers → it.wg.legOf it.w = none → it.regTrap [(0, o.d, 1)] = none →
      ∃ t m, exec (.rfirst o) s = .next t ∧ t = m.settle it.core it.slot ∧
        it.met { it.wp with block := .rfirst (regsOf (it.keysD o.d 1)), fullsv := true,
                            rfmask := maskOf fun L => laneBit it.act L && predHolds it.wp o.a L } 0 m)

/-- R140, R141: `fbp` with every lane active records its flashback point; `yield` asks to be passed over once; `trap` raises USER
with its code. -/
def Obligations.PointsYieldsTraps : Prop :=
  ∀ (s : State) (o : Op3) (it : Issue), s.warpRuns o.ctl it →
    ((Instr.fbp o).wf = true → immNat o.a < it.wg.hdr.fbn → ∃ t x, exec (.fbp o) s = .next t ∧ it.ends it.s x t ∧ it.advanced x ∧
      (it.act = it.wp.live → x.still =
        { it.wp with fbpc := it.gang.pc + 12, fbnum := immNat o.a, fbv := true, fullsv := false }.still) ∧
      (it.act ≠ it.wp.live → x.still = { it.wp with fullsv := true }.still)) ∧
    ((Instr.yield o).wf = true → ∃ t x, exec (.yield o) s = .next t ∧ it.ends it.s x t ∧ it.advanced x ∧ x.still = it.wp.still ∧
      x.passed = true) ∧
    ((Instr.trap o).wf = true → it.act ≠ 0 →
      exec (.trap o) s = .next (it.s.warpTrap it.core it.slot it.w { cls := .user, x := immNat o.a }))

/-- R295, R329 to R331: a trap of a live launch leaves its block as the newest of the core's trap queue, the trapping agent's record
first, and frees the slot. R330: while another agent of the workgroup can still issue in the cycle, a trap stands; of those that
stand, ECCU is taken first, and else that of the lowest-numbered agent. -/
def Obligations.TrapEntry : Prop :=
  ∀ (s : State) (c k a : Nat) (t : TrapInfo) (g : Workgroup) (l : Launch),
    s.wg? c k = some g → k < 8 → a ≤ 16 → g.warps.length ≤ 16 →
    (s.launchOf g = some l → l.endedAs = none → t.cls ≠ .eccu → (s.vf g.vf).flr = false →
    (∃ hdr rest, ((s.takeTrap c k a t).core c).trapq.getLast? = some (hdr :: rest) ∧
      rest.take 3 = [BitVec.ofNat 64 (t.cls.code * 2 ^ 60 + a * 2 ^ 53 + t.holder * 2 ^ 45),
        t.pc.getD (if a = 16 then g.drv.pc else (g.warps.getD a default).nextPc), BitVec.ofNat 64 t.x] ∧
      hdr >>> 60 = BitVec.ofNat 64 t.cls.code ∧ hdr.setWidth 32 = BitVec.ofNat 32 g.lid) ∧
    (s.takeTrap c k a t).wg? c k = none) ∧
    (g.trapped a = none →
      let t' := { t with pc := some (t.pc.getD (if a = 16 then g.drv.pc else (g.warps.getD a default).nextPc)) }
      let u := s.modWg c k fun h => { h with trapping := h.trapping ++ [(a, t')] }
      (s.othersIssue c { g with trapping := g.trapping ++ [(a, t')] } = true → s.raiseTrap c k a t = u) ∧
      (s.othersIssue c { g with trapping := g.trapping ++ [(a, t')] } = false → g.trapping = [] →
        s.raiseTrap c k a t = u.takeTrap c k a t')) ∧
    (∀ p, p ∈ g.trapping → (g.trapping.map (·.1)).Nodup → (∀ q ∈ g.trapping, q.1 ≤ 16) →
      (∀ q ∈ g.trapping, q.2.cls = .eccu → p.2.cls = .eccu) →
      (∀ q ∈ g.trapping, q.2.cls = p.2.cls ∨ p.2.cls ≠ .eccu → p.1 ≤ q.1) → s.settleTraps c k = s.takeTrap c k p.1 p.2)

/-! The driver space -/

/-- R22, R147 to R149: the arithmetic words of a driver or an ostler write their 64-bit result to D and change nothing else; d0
discards it. -/
def Obligations.DriverArithmetic : Prop :=
  (∀ (s : State) (i : Instr) (o : Op3) (f : W64 → W64 → W64) (it : DIssue), drvWordOf i = some (o, f) → i.wf = true →
    s.drvRuns o.ctl it →
    ∃ t, exec i s = .next t ∧ it.leaves it.s o.ctl (dOf o.d) (f (it.src o.a) (it.src o.b)) (it.pc + 12) t) ∧
  (∀ (s : State) (o : Op3) (it : DIssue), (Instr.dsel o).wf = true → s.drvRuns o.ctl it →
    ∃ t, exec (.dsel o) s = .next t ∧ it.leaves it.s o.ctl (dOf o.d)
      (if it.src (.dreg (BitVec.ofNat 5 o.xt.toNat)) ≠ 0 then it.src o.a else it.src o.b) (it.pc + 12) t) ∧
  (∀ (s : State) (o : OpL) (it : DIssue), (Instr.dmovi o).wf = true → s.drvRuns o.ctl it →
    ∃ t, exec (.dmovi o) s = .next t ∧ it.leaves it.s o.ctl (dOf o.d)
      (if o.var = 0 then o.imm.signExtend 64 else if o.var = 1 then o.imm.zeroExtend 64
       else o.imm ++ ((it.src o.d).setWidth 32 : W32)) (it.pc + 12) t)

/-- R26, R27, R150, R374: `dsread` writes a special register to D; identifiers from 0x80 on are for privileged streams, and an
ostler's read of the trap queue takes its oldest word. -/
def Obligations.DriverReads : Prop :=
  ∀ (s : State) (o : Op3) (it : DIssue) (id : BitVec 16), s.drvRuns o.ctl it → (Instr.dsread o).wf = true → o.a = .imm id →
    ((id.toNat < 0x80 ∨ s.privileged = true) → (id ≠ 0x81 ∨ it.wg ≠ none) →
      ∃ t, exec (.dsread o) s = .next t ∧
        it.leaves it.s o.ctl (dOf o.d) (BitVec.ofNat 64 (it.sreg id.toNat)) (it.pc + 12) t) ∧
    (0x80 ≤ id.toNat → s.privileged = false → ∀ g, it.wg = some g →
      exec (.dsread o) s = .next (it.s.raiseTrap it.core it.slot 16 { cls := .priv })) ∧
    (∀ w ws q, id = 0x81 → it.wg = none → (s.core it.core).trapq = (w :: ws) :: q →
      ∃ t, exec (.dsread o) s = .next t ∧
        it.leaves (it.s.modCore it.core fun co => { co with trapq := if ws = [] then q else ws :: q }) o.ctl (dOf o.d) w
          (it.pc + 12) t) ∧
    (id = 0x0F → it.sreg id.toNat = it.core) ∧ (id = 0x10 → it.sreg id.toNat = it.core / 4) ∧
    (id = 0x0E → it.sreg id.toNat = s.clock % 2 ^ 32) ∧
    ∀ g, it.wg = some g → (id = 0x03 → it.sreg id.toNat = g.hdr.warps) ∧ (id = 0x17 → it.sreg id.toNat = g.lid) ∧
      (id = 0x18 → it.sreg id.toNat = g.arg.toNat % 2 ^ 32) ∧ (id = 0x80 → it.sreg id.toNat = g.vf) ∧
      (id = 0x81 → it.sreg id.toNat = g.trapHdr.toNat) ∧
      (id = 0x14 → it.sreg id.toNat < 256 ∧ ∀ n, n < 8 →
        (it.sreg id.toNat / 2 ^ n % 2 = 1 ↔ ∃ w ∈ g.warps, w.gone = false ∧ w.fstat.getLsbD n = true))

/-- R151, R249: `dld` and `dlds` write the register form of the addressed bytes to D; no byte changes. Where the own core holds the line
dirty, the read is of those bytes by log 45: the model's reading of R222, R228 and R233. -/
def Obligations.DriverLoads : Prop :=
  ∀ (s : State) (o : Op3) (it : DIssue), s.Mem → s.atRest → s.drvRuns o.ctl it →
    (∀ pa, (Instr.dld o).wf = true → it.reachesAt o (fmtBytes o.typ) .read pa → it.sound o (fmtBytes o.typ) pa →
      s.frameHazards = [] →
      ∃ t m, exec (.dld o) s = .next t ∧ it.onlyMem m ∧ (∀ a, m.devByte it.core a = s.devByte it.core a) ∧
        it.leaves m o.ctl (dOf o.d)
          (dldForm o.typ (leNat ((List.range (fmtBytes o.typ)).map fun i => it.s.accByte (it.access o) (pa + i)))) (it.pc + 12) t) ∧
    (∀ g a ea, it.wg = some g → (Instr.dlds o).wf = true → scrGate it g o false = .ok (a, ea) → it.calm g →
      ∃ t, exec (.dlds o) s = .next t ∧ it.leaves it.s o.ctl (dOf o.d)
        (dldForm o.typ (leNat ((List.range (fmtBytes o.typ)).map fun i => s.scr it.core (a + i)))) (it.pc + 12) t) ∧
    (∀ n, n < 2 ^ 8 → dldForm 0 n = (BitVec.ofNat 8 n).signExtend 64 ∧ dldForm 1 n = BitVec.ofNat 64 n) ∧
    (∀ n, n < 2 ^ 16 → dldForm 2 n = (BitVec.ofNat 16 n).signExtend 64 ∧ dldForm 3 n = BitVec.ofNat 64 n) ∧
    (∀ n, n < 2 ^ 32 → dldForm 4 n = (BitVec.ofNat 32 n).zeroExtend 64) ∧ ∀ v : W64, dldForm 5 v.toNat = v

/-- R151, R152: `dst`, `dsts` and `datom` write the low bytes of D, or the updated element, at their address, and no other byte but
those of a dirty map; `datom` returns the old value, and writes the new one that the table of R126 gives, as `WarpAtomics` states it. An
ostler's store that ends no launch (R363) is meant. Where the own core holds the line dirty, the read is of those bytes by log 45: the
model's reading of R222, R228 and R233. -/
def Obligations.DriverStores : Prop :=
  ∀ (s : State) (o : Op3) (it : DIssue), s.Mem → s.atRest → s.drvRuns o.ctl it →
    let n := fmtBytes o.typ
    let quiet := it.wg = none → ∀ l ∈ s.launches, (s.vf l.vf).flr = false
    let untracked (a : Nat) : Prop := ∀ f, it.ctx = some f → ¬ s.tracked f a
    (∀ pa, (Instr.dst o).wf = true → it.reachesAt o n .write pa → quiet → s.frameHazards = [] →
      ∃ t m, exec (.dst o) s = .next t ∧ it.onlyMem m ∧ it.leaves m o.ctl 0 0 (it.pc + 12) t ∧
        ∀ a, untracked a → m.devByte it.core a =
          (Bytes.put (s.devByte it.core) (((List.range n).map (pa + ·)).zip (leBytes n (it.src o.d).toNat))) a) ∧
    (∀ pa, (Instr.datom o).wf = true → it.reachesAt o n .rw pa → it.sound o n pa → quiet → s.frameHazards = [] → s.ruined = [] →
      let old := leNat ((List.range n).map fun i => s.accByte (it.access o) (pa + i))
      let new := atomicNew o.aop o.sgn (8 * n) old ((it.src o.d).toNat % 2 ^ (8 * n))
        ((it.src (.dreg (BitVec.ofNat 5 (dOf o.d + 1)))).toNat % 2 ^ (8 * n))
      ∃ t m, exec (.datom o) s = .next t ∧ it.onlyMem m ∧
        it.leaves m o.ctl (dOf o.d) (BitVec.ofNat 64 old) (it.pc + 12) t ∧
        ∀ a, untracked a → m.devByte it.core a =
          (Bytes.put (s.devByte it.core) (((List.range n).map (pa + ·)).zip (leBytes n new))) a) ∧
    (∀ g a ea, it.wg = some g → (Instr.dsts o).wf = true → scrGate it g o true = .ok (a, ea) → it.calm g →
      ∃ t m, exec (.dsts o) s = .next t ∧ it.leaves m o.ctl 0 0 (it.pc + 12) t ∧
        it.putsScratch (((List.range n).map (a + ·)).zip (leBytes n (it.src o.d).toNat)) m)

/-- R153, R154: `dbra`, `dcall` and `dret` move the stream; `dfence` changes no register, and no byte as the core reads it.
R155 to R157: `dend` with every batch complete ends the driver; `dqpush` adds an entry; `dbar` arrives and waits, `dbar.arv`
arrives and goes on. -/
def Obligations.DriverControl : Prop :=
  ((∀ (s : State) (o : OpL) (it : DIssue), s.drvRuns o.ctl it →
     let target : W64 := it.pc + 12 * o.imm.signExtend 64
     let c := it.src (.dreg (BitVec.ofNat 5 o.xt.toNat))
     ((Instr.dbra o).wf = true → ∃ t, exec (.dbra o) s = .next t ∧ it.leaves it.s o.ctl 0 0
       (if o.xt.toNat / 32 = 0 ∨ (o.xt.toNat / 32 = 1 ∧ c ≠ 0) ∨ (o.xt.toNat / 32 = 2 ∧ c = 0) then target else it.pc + 12) t) ∧
     ((Instr.dcall o).wf = true → ∃ t, exec (.dcall o) s = .next t ∧
       it.leaves it.s o.ctl (o.xt.toNat % 32) (it.pc + 12) target t)) ∧
   (∀ (s : State) (o : Op3) (it : DIssue), s.drvRuns o.ctl it →
     ((Instr.dret o).wf = true → (it.src o.a).toNat % 4 = 0 →
       ∃ t, exec (.dret o) s = .next t ∧ it.leaves it.s o.ctl 0 0 (it.src o.a) t) ∧
     ((Instr.dret o).wf = true → (it.src o.a).toNat % 4 ≠ 0 → ∀ g, it.wg = some g →
       exec (.dret o) s = .next (it.s.raiseTrap it.core it.slot 16 { cls := .align, x := (it.src o.a).toNat })) ∧
     ((Instr.dfence o).wf = true → s.Mem → s.atRest → ∃ t m, exec (.dfence o) s = .next t ∧ it.leaves m o.ctl 0 0 (it.pc + 12) t ∧
       it.onlyMem m ∧ ∀ a, m.devByte it.core a = s.devByte it.core a))) ∧
  (∀ (s : State) (o : Op3) (it : DIssue) (g : Workgroup), s.wgRuns o.ctl it g →
     ((Instr.dend o).wf = true → g.quiet (s.core it.core).passesRun = true → ∃ t u, exec (.dend o) s = .next t ∧ it.leaves it.s o.ctl 0 0 (it.pc + 12) u ∧
       t = (u.modWg it.core it.slot fun g => ({ g with
         open_ := [], evq := [], hazards := [], slots := g.slots.map (HSlot.settle 16), batches := List.replicate 16 { state := .idle, cmds := [] },
         drv := { g.drv with ended := true } } : Workgroup).leaveAll s.clock 16).settle it.core it.slot) ∧
     ((Instr.dend o).wf = true → g.quiet (s.core it.core).passesRun = false → ∃ t, exec (.dend o) s = .next t ∧ it.waits .dend t) ∧
     ((Instr.dqpush o).wf = true → g.dq.length < 16 → ∃ t u, exec (.dqpush o) s = .next t ∧
       it.leaves it.s o.ctl 0 0 (it.pc + 12) u ∧
       t = u.modWg it.core it.slot fun g => ({ g with
         dq := g.dq ++ [it.src o.a], dqTail := g.dqTail + 1,
         warps := g.warps.map fun w => { w with
           waits := w.waits.map fun q => if q.kind == .dqpop then { q with held := false } else q
           readySince := if w.pick.isNone then s.clock else w.readySince } } : Workgroup).retire) ∧
     ((Instr.dqpush o).wf = true → 16 ≤ g.dq.length → ∃ t, exec (.dqpush o) s = .next t ∧ it.waits .push t) ∧
     ((g.bars.getD (immNat o.a) default).declared = true → g.hasArrived (immNat o.a) 16 = false →
       ((Instr.dbar o).wf = true → ∃ t, exec (.dbar o) s = .next t ∧
         t = (it.s.modDrv it.core it.slot fun x => { x with block := .bar (immNat o.a), readyAt := s.clock + max o.ctl.stl.toNat 1 }).modWg
           it.core it.slot fun g => g.arrive s.clock (immNat o.a) 16) ∧
       ((Instr.dbarArv o).wf = true → ∃ t u, exec (.dbarArv o) s = .next t ∧ it.leaves it.s o.ctl 0 0 (it.pc + 12) u ∧
         t = u.modWg it.core it.slot fun g => g.arrive s.clock (immNat o.a) 16)) ∧
     ((g.bars.getD (immNat o.a) default).declared = true → g.hasArrived (immNat o.a) 16 = true →
       ((Instr.dbar o).wf = true → ∃ t, exec (.dbar o) s = .next t ∧ it.waits (.barAgain (immNat o.a) false) t) ∧
       ((Instr.dbarArv o).wf = true → ∃ t, exec (.dbarArv o) s = .next t ∧ it.waits (.barAgain (immNat o.a) true) t)))

/-- R79, R80: a system word in a driver without privilege traps with PRIV, in a warp with ILL; nothing of its effect happens. -/
def Obligations.Privilege : Prop :=
  ∀ (s : State) (i : Instr) (o : Op3), sysOf i = some o →
    (∀ it g, s.drvIssue = some it → s.replay = none → it.wg = some g → g.drv.priv = false →
      exec i s = .next (it.s.raiseTrap it.core it.slot 16 { cls := .priv })) ∧
    (∀ w g, s.cur.agent = .warp w → s.wg? s.cur.core s.cur.slot = some g →
      exec i s = .next (s.warpTrap s.cur.core s.cur.slot w { cls := .ill }))

/-! Engine commands -/

/-- R162 to R164, R257, R46 to R51: `mma` and `mmag` add the products of 32 rows of A and 96 columns of B to tile D, saturating, or
overwrite it; `mmag` takes its rows where the indices of a warp's register say. With KEEP the rows of A are those of the A latch while
it holds the workgroup's rows at the same addresses, and not those of scratchpad (log 52: the model's reading of R257). -/
def Obligations.MatrixMultiply : Prop :=
  ∀ (s : State) (o : Op3) (it : DIssue) (g : Workgroup) (row : Nat → Nat) (td : Tile) (pb ob sb : Nat),
    s.wgRuns o.ctl it g → it.calm g → g.tiles[tileNo o.d]? = some td → td.wf = true →
    let fmt := o.var.toNat % 4
    let ovw := o.var.getLsbD 3
    let passes := if fmt = 0 then 1 else if fmt = 1 then 2 else 4
    let av := it.src o.a
    let bp := if spdPitch (it.src o.b) = 0 then colBytes fmt else spdPitch (it.src o.b)
    let col (j : Nat) : List Byte := (List.range (colBytes fmt)).map fun n => s.scr it.core (pb + j * bp + n)
    let aByte (i k : Nat) : Byte :=
      match (if o.var.getLsbD 2 then (s.core it.core).latched g ((List.range 32).map row) else none) with
      | some bs => (bs.getD i []).getD k 0
      | none => s.scr it.core (row i + k)
    let sum (i j : Nat) : Int := ((List.range 48).map fun k => (aByte i k).toInt * weightOf fmt (col j) k).sum
    let exact (i j : Nat) : Int := if ovw then sum i j else (td.cell i j).toInt + sum i j
    let beyond (x : Int) : Prop := 34359738367 < x ∨ x < -34359738367
    let done (i : Instr) : Prop := ∃ t m t' clamp, exec i s = .next t ∧
      it.joins o.ctl m { engine := 0, status := 0, data := if clamp then 2 ^ 16 else 0, pend := .none, passAt := it.finishes passes } t ∧
      it.setsTile (tileNo o.d) t' passes m ∧
      (∀ i j, i < 32 → j < 96 → t'.cell i j =
        BitVec.ofInt 36 (if 34359738367 < exact i j then 34359738367 else if exact i j < -34359738367 then -34359738367 else exact i j)) ∧
      (clamp = true ↔ ∃ i j, i < 32 ∧ j < 96 ∧ beyond (exact i j)) ∧ t'.rows = td.rows ∧
      t'.f32 = (!ovw && td.f32) ∧ t'.sat = ((!ovw && td.sat) || clamp)
    colBytes fmt ≤ bp → spd g (it.src o.b) 96 (colBytes fmt) bp false = .at_ pb ob sb → (ovw = false → td.f32 = false) →
    (∀ j, j < 96 → columnOk fmt (col j)) →
    (∀ pa oa sa, (Instr.mma o).wf = true → spd g av 32 48 (spdPitch av) false = .at_ pa oa sa →
      (∀ i, row i = pa + i * spdPitch av) → done (.mma o)) ∧
    (∀ pa oa sa x, (Instr.mmag o).wf = true → spdBase g av false = .at_ pa oa sa → g.warps[o.xt.toNat / 256]? = some x →
      x.gone = false → o.xt.toNat % 256 < x.count →
      (∀ i, i < 32 → spdAddr av + (x.lane (o.xt.toNat % 256) i).toNat % 65536 * spdPitch av + 48 ≤ sa ∧
        row i = pa + (x.lane (o.xt.toNat % 256) i).toNat % 65536 * spdPitch av) → done (.mmag o))

/-- R56, R165 to R168: what `scacc`, `aclr` and `ald` write to a tile, and `drain` and `ast` to scratchpad. -/
def Obligations.TileWords : Prop :=
  ∀ (s : State) (o : Op3) (it : DIssue) (g : Workgroup), s.wgRuns o.ctl it g → it.calm g →
    let byte (a : Nat) : Nat := (s.scr it.core a).toNat
    let num (a n : Nat) : Nat := leNat ((List.range n).map fun i => s.scr it.core (a + i))
    (∀ td ta p org sz, (Instr.scacc o).wf = true → g.tiles[tileNo o.d]? = some td → g.tiles[tileNo o.a]? = some ta →
      spd g (it.src o.b) 1 128 0 false = .at_ p org sz → ta.f32 = false → (td.f32 = true ∨ o.var = 1) →
      ∃ t m t', exec (.scacc o) s = .next t ∧ it.joins o.ctl m { engine := 0, status := 0, data := 0, pend := .none } t ∧
        it.setsTile (tileNo o.d) t' 0 m ∧ t'.f32 = true ∧ t'.rows = td.rows ∧
        ∀ i j, i < 32 → j < 96 →
          t'.cell i j = scaccCell (o.var = 1) (ta.cell i j) (td.cell i j) (byte (p + i)) (byte (p + 32 + j))) ∧
    (∀ td, (Instr.aclr o).wf = true → g.tiles[tileNo o.d]? = some td →
      ∃ t m t', exec (.aclr o) s = .next t ∧ it.joins o.ctl m { engine := 0, status := 0, data := 0, pend := .none } t ∧
        it.setsTile (tileNo o.d) t' 0 m ∧ t'.f32 = decide (o.var = 1) ∧ t'.sat = false ∧
        t'.rows = List.replicate 32 (0xFF80_0000, 0) ∧ t'.cells = List.replicate 32 (List.replicate 96 0)) ∧
    (∀ td p org sz rp, (Instr.ald o).wf = true → g.tiles[tileNo o.d]? = some td → (o.b.isD = false → rp = none) →
      (o.b.isD = true → ∃ q oq sq, rp = some q ∧ spd g (it.src o.b) 1 256 0 false = .at_ q oq sq) →
      spd g (it.src o.a) 32 (if o.var = 1 then 384 else 768) (spdPitch (it.src o.a)) false = .at_ p org sz →
      ∃ t m t', exec (.ald o) s = .next t ∧ it.joins o.ctl m { engine := 0, status := 0, data := 0, pend := .none } t ∧
        it.setsTile (tileNo o.d) t' 0 m ∧ t'.f32 = decide (o.var = 1) ∧
        (rp = none → t'.rows = List.replicate 32 (0xFF80_0000, 0)) ∧
        (∀ q i, rp = some q → i < 32 →
          t'.rows.getD i (0, 0) = (BitVec.ofNat 32 (num (q + 8 * i) 4), BitVec.ofNat 32 (num (q + 8 * i + 4) 4))) ∧
        ∀ i j, i < 32 → j < 96 →
          (o.var = 1 → t'.cell i j = BitVec.ofNat 36 (num (p + i * spdPitch (it.src o.a) + 4 * j) 4)) ∧
          (o.var ≠ 1 → t'.cell i j =
            BitVec.ofInt 36 (sat36 (BitVec.ofNat 36 (num (p + i * spdPitch (it.src o.a) + 8 * j) 8)).toInt).1)) ∧
    (∀ ta p org sz rp, (Instr.ast o).wf = true → g.tiles[tileNo o.a]? = some ta → (o.b.isD = false → rp = none) →
      (o.b.isD = true → ∃ q oq sq, rp = some q ∧ spd g (it.src o.b) 1 256 0 true = .at_ q oq sq) →
      spd g (it.src o.d) 32 (if ta.f32 then 384 else 768) (spdPitch (it.src o.d)) true = .at_ p org sz →
      ∃ t m, exec (.ast o) s = .next t ∧
        it.joins o.ctl m { engine := 0, status := 0, data := (if ta.f32 then 2 ^ 16 else 0) + (if ta.sat then 2 ^ 17 else 0), pend := .none } t ∧
        it.putsScratch (((List.range 32).flatMap fun i => bytesAt (p + i * spdPitch (it.src o.d)) ((List.range 96).flatMap fun j =>
            if ta.f32 then leBytes 4 ((ta.cell i j).setWidth 32 : W32).toNat else leBytes 8 ((ta.cell i j).signExtend 64).toNat)) ++
          (match rp with
           | none => []
           | some q => (List.range 32).flatMap fun i => bytesAt (q + 8 * i)
              (leBytes 4 (ta.rows.getD i (0, 0)).1.toNat ++ leBytes 4 (ta.rows.getD i (0, 0)).2.toNat))) m) ∧
    (∀ ta p org sz q oq sq, (Instr.drain o).wf = true → g.tiles[tileNo o.a]? = some ta →
      let tgt := o.var.toNat % 4
      let rows := (List.range 32).map fun i => drainRow tgt ((List.range 96).map fun j => cell32 ta.f32 (ta.cell i j))
      spd g (it.src o.d) 32 (drainLen tgt) (spdPitch (it.src o.d)) true = .at_ p org sz →
      (tgt < 2 → spd g (it.src o.b) 32 2 (spdPitch (it.src o.b)) true = .at_ q oq sq) → (2 ≤ tgt → q = 0) →
      ∃ t m, exec (.drain o) s = .next t ∧
        it.joins o.ctl m { engine := 0, status := if rows.any (·.2.2.2) then 1 else 0, pend := .none
                           data := (if rows.any (·.2.2.1) then 2 ^ 16 else 0) + (if rows.any (·.2.2.2) then 2 ^ 17 else 0) } t ∧
        it.putsScratch ((List.range 32).flatMap fun i =>
          bytesAt (p + i * spdPitch (it.src o.d)) (rows.getD i ([], [], false, false)).1
            ++ bytesAt (q + i * spdPitch (it.src o.b)) (rows.getD i ([], [], false, false)).2.1) m)

/-- R170 to R172: `attn` and `atmerge` write their tiles, `atnorm` the quotients of a tile's cells by its row sums. -/
def Obligations.AttentionWords : Prop :=
  ∀ (s : State) (o : Op3) (it : DIssue) (g : Workgroup), s.wgRuns o.ctl it g → it.calm g →
    (∀ td ta, (Instr.atmerge o).wf = true → g.tiles[tileNo o.d]? = some td → g.tiles[tileNo o.a]? = some ta → td.wf = true →
      ta.wf = true → td.f32 = true → ta.f32 = true →
      ∃ t m t', exec (.atmerge o) s = .next t ∧ it.joins o.ctl m { engine := 1, status := 0, data := 0, pend := .none } t ∧
        it.setsTile (tileNo o.d) t' 0 m ∧
        ∀ i, i < 32 →
          let r := mergeRow (td.rows.getD i (0, 0)).1 (td.rows.getD i (0, 0)).2 (ta.rows.getD i (0, 0)).1 (ta.rows.getD i (0, 0)).2
            ((List.range 96).map fun j => (td.cell i j).setWidth 32) ((List.range 96).map fun j => (ta.cell i j).setWidth 32)
          (∀ m' l' xs, r = some (m', l', xs) → t'.rows.getD i (0, 0) = (m', l') ∧
            ∀ j, j < 96 → t'.cell i j = (xs.getD j 0).setWidth 36) ∧
          (r = none → t'.rows.getD i (0, 0) = td.rows.getD i (0, 0) ∧ ∀ j, j < 96 → t'.cell i j = td.cell i j)) ∧
    (∀ ta p org sz, (Instr.atnorm o).wf = true → g.tiles[tileNo o.a]? = some ta → ta.f32 = true →
      spd g (it.src o.d) 32 (if o.var = 1 then 192 else 384) (spdPitch (it.src o.d)) true = .at_ p org sz →
      ∃ t m, exec (.atnorm o) s = .next t ∧ it.joins o.ctl m { engine := 1, status := 0, data := 0, pend := .none } t ∧
        it.putsScratch ((List.range 32).flatMap fun i => bytesAt (p + i * spdPitch (it.src o.d)) ((List.range 96).flatMap fun j =>
          let l := (ta.rows.getD i (0, 0)).2
          let q (f : Fmt) : Nat := if l &&& 0x7FFF_FFFF = 0 then 0 else divTo f (f32 ((ta.cell i j).setWidth 32)) (f32 l)
          if o.var = 1 then leBytes 2 (q fBF16) else leBytes 4 (q fF32))) m) ∧
    (∀ td td' pa oa sa r3 r4 r5, (Instr.attn o).wf = true →
      let p1 := (it.src (.dreg (BitVec.ofNat 5 (dOf o.a + 1)))).toNat
      let p2 := (it.src (.dreg (BitVec.ofNat 5 (dOf o.a + 2)))).toNat
      let d := 48 * (p1 / 2 ^ 32 % 4 + 1)
      let n := d / 48
      let va := (it.src o.b).toNat
      let a := it.engAccess g 2 0
      let ts := touches va (512 + 96 * d) .read
      let f : Frame := { bytes := (it.s.touchBytes a ts).map (it.s.accByte a) }
      let pitch := spdPitch (it.src o.a)
      let q (i : Nat) : List (List Int) := (List.range n).map fun b =>
        (List.range 48).map fun k => (s.scr it.core (pa + i * pitch + 48 * b + k)).toInt
      let qsc (i : Nat) : List Nat := (List.range n).map fun b => (s.scr it.core (pa + 32 * pitch + 4 * i + b)).toNat
      g.tiles[tileNo o.d]? = some td → (96 < d → g.tiles[tileNo o.d + 1]? = some td') → td.f32 = true → (96 < d → td'.f32 = true) →
      spd g (it.src o.a) 32 d pitch false = .at_ pa oa sa → spd g (it.src o.a) 33 128 pitch false = .at_ r3 r4 r5 →
      p1 / 2 ^ 48 = 0 → p1 / 2 ^ 34 % 2 ^ 6 = 0 → p1 / 2 ^ 40 % 2 ^ 8 ≠ 0 → canonical va = true → va % 64 = 0 →
      it.s.touchFail a ts = none → it.s.touchPin a ts = none → f.valid ≤ 48 →
      (∀ i b, i < 32 → b ∈ qsc i → b ≠ 255) → (∀ j b, j < f.valid → b < n → f.kscale j b ≠ 255) →
      (∀ c, c < d → f.vscale c ≠ 255) →
      ∃ t m, exec (.attn o) s = .next t ∧ it.joins o.ctl m
          { engine := 1, status := 0, data := 0, pend := .none, passAt := it.finishes (4 * (d / 48) + 4 * ((d + 95) / 96)) } t ∧
        let r := attnTiles f d f.valid (p1 / 2 ^ 40 % 2 ^ 8) (p2 / 2 ^ 32 % 2 ^ 32) (p2 % 2 ^ 32) (BitVec.ofNat 32 p1) q qsc td td'
        m.tile it.core it.slot (tileNo o.d) = r.1 ∧ (96 < d → m.tile it.core it.slot (tileNo o.d + 1) = r.2) ∧
        m.mem = s.mem)

/-- R173, R174: `copy` and `copyx` move rows of bytes between scratchpad and memory. -/
def Obligations.CopyWords : Prop :=
  ∀ (s : State) (o : Op3) (it : DIssue) (g : Workgroup), s.Mem → s.atRest → s.wgRuns o.ctl it g → it.calm g → it.noCopyEngine g = false →
    let a := it.engAccess g o.scope o.sid.toNat
    let dv := it.src o.d
    let av := it.src o.a
    let p0 := (it.src (.dreg (BitVec.ofNat 5 (dOf o.b)))).toNat
    let p1 := (it.src (.dreg (BitVec.ofNat 5 (dOf o.b + 1)))).toNat
    (∀ dr ar, (Instr.copy o).wf = true →
      let dir := o.var.toNat % 4
      let len := p0 % 2 ^ 32
      let rows := if len = 0 then 0 else p0 / 2 ^ 32
      let dScr := decide (dir = 0 ∨ dir = 3)
      let aScr := decide (dir = 1 ∨ dir = 3)
      (rows ≤ 1 ∨ len ≤ p1 / 2 ^ 32) →
      (if dScr then ∃ x y z, dr = .at_ x y z else canonical dv.toNat = true) →
      (if aScr then ∃ x y z, ar = .at_ x y z else canonical av.toNat = true) →
      dr = (if dScr then copySpd g dv rows len (p1 / 2 ^ 32) true else .at_ 0 0 0) →
      ar = (if aScr then copySpd g av rows len (p1 % 2 ^ 32) false else .at_ 0 0 0) →
      let src := copySide ar aScr av rows (p1 % 2 ^ 32)
      let dst := copySide dr dScr dv rows (p1 / 2 ^ 32)
      it.copies a src dst len → ∃ t, exec (.copy o) s = .next t ∧ it.copiedTo g o.ctl a src dst len t) ∧
    (∀ r x y z, (Instr.copyx o).wf = true →
      let gat := !o.var.getLsbD 0
      let len := p1 % 2 ^ 32
      let lst := p0 % 2 ^ 20
      let n := p0 / 2 ^ 32
      let rows := if len = 0 then 0 else n
      p0 / 2 ^ 20 % 2 ^ 12 = 0 → lst % 4 = 0 → regionEnd lst n 4 4 ≤ g.hdr.scratch →
      canonical (if gat then av else dv).toNat = true →
      r = copySpd g (if gat then dv else av) n len len gat → r = .at_ x y z →
      let scr := copySide r true (if gat then dv else av) rows len
      let at_ (k : Nat) : Nat := leNat ((List.range 4).map fun i => s.scr it.core (g.winBase + lst + 4 * k + i))
      let glo : Side :=
        { scratch := false, rows := (List.range rows).map fun k => (if gat then av else dv).toNat + at_ k * (p1 / 2 ^ 32) }
      let src := if gat then glo else scr
      let dst := if gat then scr else glo
      it.copies a src dst len → ∃ t, exec (.copyx o) s = .next t ∧ it.copiedTo g o.ctl a src dst len t)

/-- R175 to R178: `bfence` closes the open batch, `bwait` on a batch that is not in flight goes on, `evpop` pops the oldest record;
a batch whose commands have finished completes, and leaves its record. -/
def Obligations.BatchWords : Prop :=
  (∀ (s : State) (o : Op3) (it : DIssue) (g : Workgroup), s.wgRuns o.ctl it g →
    ((Instr.bfence o).wf = true → g.fenceWaits (immNat o.a) = false → ∃ t, exec (.bfence o) s = .next t ∧
      it.leaves (it.s.modWg it.core it.slot fun g => g.closeBatch (immNat o.a)) o.ctl 0 0 (it.pc + 12) t) ∧
    ((Instr.bfence o).wf = true → g.fenceWaits (immNat o.a) = true →
      ∃ t, exec (.bfence o) s = .next t ∧ it.waits (.bfence (immNat o.a)) t) ∧
    ((Instr.bwait o).wf = true → g.inflight (immNat o.a) = false → ∃ t, exec (.bwait o) s = .next t ∧
      it.leaves (it.s.modWg it.core it.slot fun g =>
        { g with hazards := g.hazards.filter fun h => h.batch % 32 != immNat o.a }) o.ctl 0 0 (it.pc + 12) t) ∧
    (∀ r q, (Instr.evpop o).wf = true → g.evq = r :: q → ∃ t, exec (.evpop o) s = .next t ∧
      it.leaves (it.s.modWg it.core it.slot fun g => ({ g with evq := q } : Workgroup).popped (r.toNat / 16 % 16)) o.ctl (dOf o.d) r
        (it.pc + 12) t) ∧
    ((Instr.evpop o).wf = true → g.evq = [] → (o.var.getLsbD 0 = true ∨ g.flying = []) → ∃ t, exec (.evpop o) s = .next t ∧
      it.leaves it.s o.ctl (dOf o.d) 0xFFFF_FFFF_FFFF_FFFF (it.pc + 12) t)) ∧
  (∀ (s : State) (core slot n : Nat) (g : Workgroup), s.wg? core slot = some g → g.inflight n = true →
    cmdsPending (s.core core).passesRun (g.batch n).cmds = false →
    ∃ t h, exec (.batchCompletion core slot n) s = .next t ∧ t.wg? core slot = some h ∧
      h.evq = g.evq ++ [recordOf n (g.batch n).cmds] ∧ (h.batch n).state = .complete ∧ h.warps = g.warps ∧ h.drv = g.drv ∧
      t.mem = s.mem) ∧
  (∀ (g : Workgroup) (n : Nat), n < g.batches.length →
    (g.open_ ≠ [] → (g.closeBatch n).batch n = { state := .inflight, cmds := g.open_ } ∧ (g.closeBatch n).open_ = [] ∧
      (g.closeBatch n).evq = g.evq) ∧
    (g.open_ = [] → ((g.closeBatch n).batch n).state = .complete ∧ (g.closeBatch n).evq = g.evq ++ [BitVec.ofNat 64 (16 * n + 15)]))

/-- R177: the record of a finished batch: STATUS and DATA of its first command with a nonzero status, or of its last.
R179, R302: `launch` with room queues its child and holds its command until the child is done; without, it only returns a status.
That its driver waits under RETRY where another core holds a line that it needs is log 25's: the model's reading of R229. -/
def Obligations.RecordsAndLaunches : Prop :=
  (∀ (n : Nat) (cs : List Cmd) (q : Cmd), n < 16 → (∀ c ∈ cs, c.engine < 16 ∧ c.status < 256 ∧ c.data < 2 ^ 64 ∧ c.data % 65536 = 0) →
     (((∀ c ∈ cs, c.status = 0) ∧ cs.getLast? = some q) ∨ (∃ a b, cs = a ++ q :: b ∧ q.status ≠ 0 ∧ ∀ c ∈ a, c.status = 0) →
       recordOf n cs = BitVec.ofNat 64 (q.data + 256 * q.status + 16 * n + q.engine)) ∧
     recordOf n [] = BitVec.ofNat 64 (16 * n + 15)) ∧
  (∀ (s : State) (o : Op3) (it : DIssue) (g : Workgroup) (l : Launch), s.wgRuns o.ctl it g → (Instr.launch o).wf = true →
     it.s.launchOf g = some l →
     let image := (it.src o.a).toNat
     (∀ ln addr, it.s.devPin it.core g.vf (it.s.launchLines g.vf g.region.toNat image) = some (ln, addr) →
       (∀ l a t, g.drv.block ≠ .pin l a t) → ∃ t, exec (.launch o) s = .next t ∧ it.waits (.pin ln addr s.clock) t) ∧
     (it.s.devPin it.core g.vf (it.s.launchLines g.vf g.region.toNat image) = none →
     (it.s.launchStatus g.vf g.region.toNat image = 0 → ∃ t h, exec (.launch o) s = .next t ∧ h.batch = 16 ∧
       it.leaves ((it.s.queueChild g.vf g.region.toNat image (it.src o.b).toNat (l.image.toNat + l.recOff it.s g.wgnum)).modWg it.core it.slot
         fun g => { g with open_ := g.open_ ++ [{ engine := 7, status := 0, data := 0, pend := .child image }],
                           hazards := g.hazards ++ [h] }) o.ctl (dOf o.d) 0 (it.pc + 12) t) ∧
     (it.s.launchStatus g.vf g.region.toNat image ≠ 0 → ∃ t, exec (.launch o) s = .next t ∧
       it.leaves it.s o.ctl (dOf o.d) (BitVec.ofNat 64 (it.s.launchStatus g.vf g.region.toNat image)) (it.pc + 12) t)))

/-- R322: FOLD64 of 26 key words is a fold of steps and a final step, the same that 26 `dhash` and one `dhash.fin` compute. -/
def Obligations.FoldHash : Prop :=
  ∀ ws : List W64, ws.length = 26 →
    let h := ws.foldl (fun h w => (h ^^^ w).rotateLeft 27 * 0x9FB2_1C65_1E98_DF25) (0x9E37_79B9_7F4A_7C15 : W64)
    fold64 (ws.map (·.toNat)) = (h.toNat ^^^ (h.toNat / 2 ^ 29)) ∧
    ∀ o f g, o.var = 0 → drvWordOf (.dhash o) = some (o, f) → drvWordOf (.dhash { o with var := 1 }) = some ({ o with var := 1 }, g) →
      (g (ws.foldl f 0x9E37_79B9_7F4A_7C15) 0).toNat = fold64 (ws.map (·.toNat))

/-- R182 to R185: `kvfind` in its three modes, and `kvins`, act on the bucket of their key. -/
def Obligations.PrefixTable : Prop :=
  ∀ (s : State) (o : Op3) (it : DIssue) (g : Workgroup) (rp ro rs kp ko ks : Nat), s.wgRuns o.ctl it g → it.calm g →
    copySpd g (it.src o.d) 1 8 0 true = .at_ rp ro rs →
    spd g (it.src o.a) 1 208 (spdPitch (it.src o.a)) false = .at_ kp ko ks →
    let a := it.engAccess g 2 0
    let bv := it.src (.dreg (BitVec.ofNat 5 (dOf o.b)))
    let nv := it.src (.dreg (BitVec.ofNat 5 (dOf o.b + 1)))
    let h := (it.src (.dreg (BitVec.ofNat 5 (dOf o.b + 2)))).toNat
    let ws := it.s.keyWords it.core kp
    let bk := bucketVa bv.toNat nv.toNat ws
    tableTrap bv nv = none → it.s.touchPin a (touches bk 1536 .read) = none →
    let run (mode : Nat) : State → State × Nat × Nat := kvfindRun a mode rp kp bv.toNat nv.toNat
    ((Instr.kvfindLook o).wf = true → ∃ t, exec (.kvfindLook o) s = .next t ∧ it.performs o.ctl 3 .none (run 0) t) ∧
    ((Instr.kvfindRef o).wf = true → ∃ t, exec (.kvfindRef o) s = .next t ∧ it.performs o.ctl 3 .none (run 1) t) ∧
    ((Instr.kvfindUnref o).wf = true → ∃ t, exec (.kvfindUnref o) s = .next t ∧ it.performs o.ctl 3 .none (run 2) t) ∧
    (keyBad ws = true → (run 0 it.s).2 = (1, 0)) ∧
    (∀ u, keyBad ws = false → it.s.touchFail a (touches bk 1536 .read) = none →
      u = (it.s.sendFar a bk).touchRead a (touches bk 1536 .read) →
      (u.findEntry a bk ws = none → ∀ mode, run mode it.s = (u.result a rp 8 0, 6, 0)) ∧
      (∀ w, u.findEntry a bk ws = some w →
        let page := u.touchNat a (bk + 192 * w) 8
        let refs := u.touchNat a (bk + 192 * w + 28) 4
        run 0 it.s = (u.result a rp 8 page, 0, w * 2 ^ 16) ∧
        (refs = 0 → run 2 it.s = (u, 11, 0)) ∧
        (u.touchFail a (touches (bk + 192 * w + 24) 8 .rw) = none →
          run 1 it.s = ((u.touchPut a (bk + 192 * w + 28) 4 ((refs + 1) % 2 ^ 32)).result a rp 8 page, 0, w * 2 ^ 16) ∧
          (refs ≠ 0 → run 2 it.s =
            ((u.touchPut a (bk + 192 * w + 28) 4 (refs - 1)).result a rp 8 page, 0, if refs = 1 then 2 ^ 16 else 0))))) ∧
    ((Instr.kvins o).wf = true → hNode h = it.s.img.nodeid →
      (it.s.firstPin it.core (((it.s.dirPa h :: if hIndex h < it.s.img.dirn then [(it.s.ownEnt a h).frame] else [])).map lineOf) = none) →
      ∃ t, exec (.kvins o) s = .next t ∧ it.performs o.ctl 3 .none (kvinsRun a g.ownerWord rp kp bv.toNat nv.toNat h) t) ∧
    ((Instr.kvins o).wf = true → hNode h ≠ it.s.img.nodeid → it.s.peer? g.vf (hNode h) = none →
      ((it.s.portFor g.vf).isSome = true →
        ∃ t, exec (.kvins o) s = .next t ∧ it.performs o.ctl 3 (.peer s.clock) (fun u => (u.sendOver g.vf, 0, 0)) t) ∧
      (it.s.portFor g.vf = none → ∃ t, exec (.kvins o) s = .next t ∧ it.performs o.ctl 3 .none (fun u => (u, 7, 0)) t)) ∧
    (∀ q, (Instr.kvins o).wf = true → hNode h ≠ it.s.img.nodeid → it.s.peer? g.vf (hNode h) = some q →
      let en := it.s.farEnt q h
      ∃ t, exec (.kvins o) s = .next t ∧ it.performs o.ctl 3 .none (fun u =>
        (u.sendOver g.vf, (it.s.farDirFail q h).getD (if en.current h q.dirn then 11 else 4, 0))) t)

/-- R186 to R189, R319: `kvapp`, `kvtrim`, `kvown` and `kvpull` act on the page frame or the directory entry that they name. On a
frame of the caller's own that is not published, with room and a good token record, `kvapp` completes with status 0 and leaves the
frame with the token appended; `kvtrim` to no more than the valid count completes with status 0, lowers the count and touches no byte
but those of the dropped slots; `kvown` of a current handle completes with status 0 and its two words; `kvpull` of a current handle of
a published frame completes with status 0 and a copy of the frame. Where a result byte is one of the function's dirty map (R340), the
statement says nothing of it. -/
def Obligations.PageFrames : Prop :=
  (∀ (f : Frame) (r : TokenRec) (d : Nat) (hr : Int), f.bytes.length = 512 + 96 * d → d ≤ 192 → f.valid < 48 →
    let vc := f.valid
    let n := (appendFrame f r d hr).1
    let ch (c : Nat) : Channel :=
      appendChannel hr vc (fBF16.decode (r.vcode d c)) ((f.vscale c : Int) - 127) ((List.range vc).map fun j => f.v d j c)
    n.length = 512 + 96 * d ∧ n.getD 8 0 = BitVec.ofNat 8 (vc + 1) ∧
    (appendFrame f r d hr).2 = ((List.range d).filter fun c => (ch c).raised).length ∧
    (∀ c, c < d → n.getD (512 + d * vc + c) 0 = BitVec.ofNat 8 (r.at_ c) ∧ n.getD (256 + c) 0 = BitVec.ofInt 8 ((ch c).exp + 127) ∧
      n.getD (512 + 48 * d + d * vc + c) 0 = BitVec.ofInt 8 (ch c).q ∧
      ∀ j, j < vc → n.getD (512 + 48 * d + d * j + c) 0 = BitVec.ofInt 8 ((ch c).old.getD j 0)) ∧
    (∀ b, b < 4 → n.getD (64 + 4 * vc + b) 0 = BitVec.ofNat 8 (r.at_ (d + b))) ∧
    ∀ i, i ≠ 8 → i ≠ 9 → ¬ (64 + 4 * vc ≤ i ∧ i < 68 + 4 * vc) → ¬ (256 ≤ i ∧ i < 256 + d) →
      ¬ (512 + d * vc ≤ i ∧ i < 512 + d * (vc + 1)) → ¬ (512 + 48 * d ≤ i ∧ i < 512 + 48 * d + d * (vc + 1)) →
      n.getD i 0 = f.bytes.getD i 0) ∧
  ∀ (s : State) (o : Op3) (it : DIssue) (g : Workgroup), s.wgRuns o.ctl it g → it.calm g →
    let a := it.engAccess g 2 0
    let va := (it.src o.d).toNat
    let h := (it.src o.a).toNat
    let p := (it.src o.b).toNat
    let d := 48 * (p % 4 + 1)
    (∀ tp dest ts leg, (Instr.kvapp o).wf = true → (o.xtBit 3 = false → leg = none) →
      (o.xtBit 3 = true → g.hdr.relay = true ∧ leg = some (o.xt.toNat % 8) ∧ ∃ r, g.relay = some r ∧ o.xt.toNat % 8 < r.width) →
      frameTrap (it.src o.d) = none →
      spd g (it.src o.a) 1 (3 * d + 8) (spdPitch (it.src o.a)) false = .at_ tp dest ts → p / 4 = 0 →
      it.s.touchPin a (touches va (512 + 96 * d) .read) = none →
      it.s.firstPin it.core ((it.s.headerEnt a va).map lineOf) = none →
      (∃ t, exec (.kvapp o) s = .next t ∧
        it.performs o.ctl 3 .none (kvappRun a g.ownerWord va d tp (headroom (o.var.toNat % 4)) leg false) t) ∧
      let w8 := it.s.touchNat a (va + 8) 2
      let rs := touches va (512 + 96 * d) .rw
      let r : TokenRec := { bytes := (List.range (3 * d + 8)).map fun i => s.scr it.core (tp + i) }
      let pa := (it.s.touchBytes a rs).headD 0
      let m0 := it.s.bump.namesDim pa d
      let f : Frame := { bytes := (it.s.touchBytes a rs).map (m0.devByte it.core) }
      let n := appendFrame f r d (headroom (o.var.toNat % 4))
      let app : Append := { leg := leg.getD 0, pa, va, before := f.valid, d }
      (s.Mem → s.atRest → it.s.ruined = [] → it.s.headerFail a va = none → it.s.ownsFrame a g.ownerWord va = true → w8 / 256 % 2 = 0 →
        w8 % 256 < 48 → r.bad d = false → it.s.touchFail a rs = none →
        ∃ t m, exec (.kvapp o) s = .next t ∧
          it.joins o.ctl m { engine := 3, status := 0, pend := .none
                             data := (if n.2 ≠ 0 then 2 ^ 16 else 0) + n.2 * 2 ^ 24 + (f.valid + 1) * 2 ^ 40 } t ∧
          (∀ q, ¬ s.tracked g.vf q → m.devByte it.core q =
            (Bytes.put (m0.devByte it.core) ((it.s.touchBytes a rs).zip n.1)) q) ∧
          m.skeleton = (if leg = none then it.s else it.s.modWg it.core it.slot fun g =>
            g.modRelay fun q => { q with appends := q.appends ++ [app] }).skeleton)) ∧
    ((Instr.kvtrim o).wf = true → frameTrap (it.src o.d) = none → it.s.touchPin a (touches va 64 .read) = none →
      it.s.firstPin it.core ((it.s.headerEnt a va).map lineOf) = none →
      (∃ t, exec (.kvtrim o) s = .next t ∧ it.performs o.ctl 3 .none (kvtrimRun a g.ownerWord va h) t) ∧
      let w8 := it.s.touchNat a (va + 8) 2
      let vc := w8 % 256
      let pa := (it.s.touchBytes a (touches va 64 .rw)).headD 0
      let named := (it.s.bump.touchPut a (va + 8) 1 h).frameDim? pa
      let dropped (dim q : Nat) : Prop := (pa + 512 + dim * h ≤ q ∧ q < pa + 512 + dim * vc) ∨
        (pa + 512 + 48 * dim + dim * h ≤ q ∧ q < pa + 512 + 48 * dim + dim * vc)
      (s.Mem → s.atRest → it.s.ruined = [] → it.s.headerFail a va = none → it.s.ownsFrame a g.ownerWord va = true → w8 / 256 % 2 = 0 →
        h ≤ vc → h ≤ 48 → (h < vc → it.s.touchFail a (touches va 64 .rw) = none) →
        ∃ t m, exec (.kvtrim o) s = .next t ∧
          it.joins o.ctl m { engine := 3, status := 0, data := h * 2 ^ 40, pend := .none } t ∧ m.skeleton = it.s.skeleton ∧
          (h = vc → ∀ q, m.devByte it.core q = s.devByte it.core q) ∧
          (h < vc → ∀ q, ¬ s.tracked g.vf q →
            (∀ dim, named = some dim ∨ (named = none ∧ dim ∈ [48, 96, 144, 192]) → ¬ dropped dim q) → m.devByte it.core q =
              (Bytes.put (s.devByte it.core) ((it.s.touchBytes a (touches (va + 8) 1 .write)).zip [BitVec.ofNat 8 h])) q))) ∧
    (∀ rp ro rs, (Instr.kvown o).wf = true → copySpd g (it.src o.d) 1 16 0 true = .at_ rp ro rs → hNode h = it.s.img.nodeid →
      it.s.firstPin it.core ((if hIndex h < it.s.img.dirn then
        it.s.dirPa h :: (if (it.s.ownEnt a h).state == 1 then [(it.s.ownEnt a h).frame] else []) else []).map lineOf) = none →
      (∃ t, exec (.kvown o) s = .next t ∧ it.performs o.ctl 3 .none (kvownRun a rp h) t) ∧
      let en := it.s.bump.ownEnt a h
      (en.current h it.s.img.dirn = true → it.s.physFail a (it.s.dirPa h) = none →
        (en.state = 1 → it.s.physFail a en.frame = none) →
        ∃ t m, exec (.kvown o) s = .next t ∧ it.joins o.ctl m { engine := 3, status := 0, data := 0, pend := .none } t ∧
          it.putsScratch (((List.range 16).map (rp + ·)).zip (leBytes 8 en.owner ++ leBytes 8
            ((if en.state = 1 then it.s.bump.physNat a (en.frame + 8) 1 else 0) * 2 ^ 16 + en.gen * 256 + en.state))) m)) ∧
    ((Instr.kvpull o).wf = true → frameTrap (it.src o.d) = none → p / 4 = 0 → hNode h = it.s.img.nodeid →
      it.s.touchPin a (touches va (512 + 96 * d) .write) = none →
      it.s.firstPin it.core ((if hIndex h < it.s.img.dirn then
        it.s.dirPa h :: (List.range ((frameBytes d + 63) / 64)).map fun i => (it.s.ownEnt a h).frame + 64 * i else []).map lineOf) = none →
      (∃ t, exec (.kvpull o) s = .next t ∧ it.performs o.ctl 3 .none (kvpullRun a va d h) t) ∧
      let en := it.s.bump.ownEnt a h
      let ws := touches va (512 + 96 * d) .write
      (s.Mem → s.atRest → en.current h it.s.img.dirn = true → en.state = 2 → it.s.physFail a (it.s.dirPa h) = none →
        (∀ i, i < (512 + 96 * d) / 64 → it.s.physFail a (en.frame + 64 * i) = none) → it.s.touchFail a ws = none →
        ∃ t m, exec (.kvpull o) s = .next t ∧ it.joins o.ctl m { engine := 3, status := 0, data := 0, pend := .none } t ∧
          m.skeleton = it.s.skeleton ∧
          ∀ q, ¬ s.tracked g.vf q → m.devByte it.core q = (Bytes.put (s.devByte it.core)
            ((it.s.touchBytes a ws).zip ((List.range (512 + 96 * d)).map fun i => it.s.bump.accByte a (en.frame + i)))) q)) ∧
    (∀ rp ro rs, (Instr.kvown o).wf = true → copySpd g (it.src o.d) 1 16 0 true = .at_ rp ro rs → hNode h ≠ it.s.img.nodeid →
      (it.s.peer? g.vf (hNode h) = none → (it.s.portFor g.vf).isSome = true → ∃ t, exec (.kvown o) s = .next t ∧
        it.performs o.ctl 3 (.peer s.clock) (fun u => (u.sendOver g.vf, 0, 0)) t) ∧
      (it.s.portFor g.vf = none → ∃ t, exec (.kvown o) s = .next t ∧ it.performs o.ctl 3 .none (fun u => (u, 7, 0)) t) ∧
      (∀ q, it.s.peer? g.vf (hNode h) = some q → ∃ t, exec (.kvown o) s = .next t ∧
        it.performs o.ctl 3 .none (fun u => kvownPeer a rp h q (u.sendOver g.vf)) t)) ∧
    ((Instr.kvpull o).wf = true → frameTrap (it.src o.d) = none → p / 4 = 0 → hNode h ≠ it.s.img.nodeid →
      it.s.touchPin a (touches va (512 + 96 * d) .write) = none →
      (it.s.peer? g.vf (hNode h) = none → (it.s.portFor g.vf).isSome = true → ∃ t, exec (.kvpull o) s = .next t ∧
        it.performs o.ctl 3 (.peer s.clock) (fun u => (u.sendOver g.vf, 0, 0)) t) ∧
      (it.s.portFor g.vf = none → ∃ t, exec (.kvpull o) s = .next t ∧ it.performs o.ctl 3 .none (fun u => (u, 7, 0)) t) ∧
      (∀ q, it.s.peer? g.vf (hNode h) = some q → ∃ t, exec (.kvpull o) s = .next t ∧
        it.performs o.ctl 3 .none (fun u => kvpullPeer a va d h q (u.sendOver g.vf)) t)) ∧
    (∀ u w8, it.s.headerFail a va = none → w8 = it.s.touchNat a (va + 8) 2 →
      (it.s.ownsFrame a g.ownerWord va = false ∨ w8 / 256 % 2 = 1 →
        kvtrimRun a g.ownerWord va u it.s = (it.s, 11, w8 % 256 % 64 * 2 ^ 40)) ∧
      (it.s.ownsFrame a g.ownerWord va = true → w8 / 256 % 2 = 0 → (w8 % 256 < u ∨ 48 < u) →
        kvtrimRun a g.ownerWord va u it.s = (it.s, 1, w8 % 256 % 64 * 2 ^ 40)) ∧
      (it.s.ownsFrame a g.ownerWord va = true → w8 / 256 % 2 = 0 → w8 % 256 = u → u ≤ 48 →
        kvtrimRun a g.ownerWord va u it.s = (it.s, 0, u * 2 ^ 40)))

/-- R191 to R195, R325, R327: the weight-set words, and a peer's broadcast that arrives. `wsref` returns the active slot of a valid
entry and counts the reference once; `wsswap` of the version it names flips the selector and advances the version, and gives 6 for an
invalid entry (R325). Status 1 of `wspull` for a node of 4096 or more and of `wsbcast` for an odd list, a count of 0 or one of 4096 or
more is log 38's, and that `wsref` asks for write permission only where it counts is log 28's: the model's readings. -/
def Obligations.WeightSets : Prop :=
  (∀ (s : State) (o : Op3) (it : DIssue) (g : Workgroup), s.wgRuns o.ctl it g → it.calm g → (it.src o.a).toNat < 256 →
    let a := it.engAccess g 2 0
    let e := (it.src o.a).toNat
    let entry := it.s.wsVa g.vf g.region.toNat e
    ((Instr.wsref o).wf = true → entry = none → ∃ t, exec (.wsref o) s = .next t ∧
      it.leaves it.s o.ctl (dOf o.d) 0 (it.pc + 12) t) ∧
    (∀ va pa, (Instr.wsref o).wf = true → entry = some va → it.s.translate it.core g.vf va .read = .ok pa →
      it.s.holder it.core (lineOf pa) = none → it.s.accPoison a ((List.range 64).map (pa + ·)) = false →
      let u := it.s.touchRead a (touches va 64 .read)
      let x := wsEntry (u.touchNat a) va
      (g.captures.find? (fun c => c.1 == e) = none → x.valid = false → ∃ t, exec (.wsref o) s = .next t ∧
        it.leaves u o.ctl (dOf o.d) 0 (it.pc + 12) t) ∧
      (∀ c, g.captures.find? (fun c => c.1 == e) = some c → ∃ t, exec (.wsref o) s = .next t ∧
        it.leaves u o.ctl (dOf o.d) (BitVec.ofNat 64 (if c.2 then x.slotB else x.slotA)) (it.pc + 12) t) ∧
      (g.captures.find? (fun c => c.1 == e) = none → x.valid = true → it.s.translate it.core g.vf va .rw = .ok pa →
        ∃ t, exec (.wsref o) s = .next t ∧
        it.leaves ((u.touchPut a (va + (if x.sel then 36 else 32)) 4 (((if x.sel then x.refB else x.refA) + 1) % 2 ^ 32)).modWg it.core
            it.slot fun g => { g with captures := g.captures ++ [(e, x.sel)] }) o.ctl (dOf o.d)
          (BitVec.ofNat 64 (if x.sel then x.slotB else x.slotA)) (it.pc + 12) t)) ∧
    ((Instr.wsswap o).wf = true → (∀ va, entry = some va → it.s.touchPin a (touches va 64 .rw) = none) →
      ∃ t run, exec (.wsswap o) s = .next t ∧ it.performs o.ctl 4 .none run t ∧
        ∀ va, entry = some va → it.s.touchFail a (touches va 64 .rw) = none →
          let u := it.s.bump.touchRead a (touches va 64 .rw)
          let x := wsEntry (u.touchNat a) va
          let new := (x.version + 1) % 2 ^ 32
          (x.valid = false → run it.s.bump = (u, 6, 0)) ∧
          (x.valid = true → x.version ≠ (it.src o.b).toNat → run it.s.bump = (u, 11, 0)) ∧
          (x.valid = true → x.version = (it.src o.b).toNat → ∃ w, run it.s.bump = (u.touchPut a (va + 24) 8 w, 0, new * 2 ^ 16) ∧
            w / 2 ^ 32 = new ∧ w.testBit 1 = !x.sel ∧
            ∀ i, i < 32 → i ≠ 1 → w.testBit i = (u.touchNat a (va + 24) 4).testBit i)) ∧
    ((Instr.wspull o).wf = true → 4096 ≤ (it.src o.b).toNat →
      ∃ t, exec (.wspull o) s = .next t ∧ it.performs o.ctl 4 .none (fun u => (u, 1, 0)) t) ∧
    (∀ q, (Instr.wspull o).wf = true → entry = none → (it.src o.b).toNat < 4096 → it.s.peer? g.vf (it.src o.b).toNat = some q →
      ∃ t, exec (.wspull o) s = .next t ∧ it.performs o.ctl 4 .none (fun u => wspullRun g.vf e q a none (u.sendOver g.vf)) t) ∧
    (∀ va q, (Instr.wspull o).wf = true → entry = some va → (it.src o.b).toNat < 4096 →
      it.s.peer? g.vf (it.src o.b).toNat = some q →
      let x := wsEntry (it.s.touchNat a) va
      it.s.touchPin a (touches va 64 .rw ++ if x.valid then touches x.idle x.size .write else []) = none →
      ∃ t, exec (.wspull o) s = .next t ∧ it.performs o.ctl 4 .none (fun u => wspullRun g.vf e q a (some va) (u.sendOver g.vf)) t) ∧
    ((Instr.wspull o).wf = true → (it.src o.b).toNat < 4096 → it.s.peer? g.vf (it.src o.b).toNat = none →
      (∀ va, entry = some va → it.s.touchPin a (touches va 64 .rw) = none) →
      ∃ t, exec (.wspull o) s = .next t ∧
        it.performs o.ctl 4 (if (wsFree g.vf a entry it.s).2.1 = 0 then .peer s.clock else .none) (wsFree g.vf a entry) t) ∧
    (let list := (it.src (.dreg (BitVec.ofNat 5 (dOf o.b)))).toNat
     let n := (it.src (.dreg (BitVec.ofNat 5 (dOf o.b + 1)))).toNat
     ((Instr.wsbcast o).wf = true → (list % 2 = 1 ∨ n = 0 ∨ 4096 ≤ n) → ∃ t, exec (.wsbcast o) s = .next t ∧
        it.performs o.ctl 4 .none (fun u => (u, 1, 0)) t) ∧
     ((Instr.wsbcast o).wf = true → list % 2 = 0 → 0 < n → n < 4096 →
        (∀ va, entry = some va → let x := wsEntry (it.s.touchNat a) va
          it.s.touchPin a (touches va 64 .rw ++ (touches list (2 * n) .read ++
            if x.valid then touches x.active x.size .read else [])) = none) →
        (entry = none → it.s.touchPin a (touches list (2 * n) .read) = none) →
        ∃ t pend, exec (.wsbcast o) s = .next t ∧ it.performs o.ctl 4 pend (wsbcastRun g.vf e list n a entry) t))) ∧
  (∀ (s u : State) (vf entry version : Nat) (data : Received) (x : WsEntry),
    (s.vf vf).topRcb ≠ 0 → s.topNat vf 48 8 ≠ 0 → u = s.settleRange vf (s.topNat vf 48 8 + 64 * entry) 64 →
    x = wsEntry (u.dev vf) (s.topNat vf 48 8 + 64 * entry) →
    (x.valid = true → x.size = data.bytes.length → x.idleBusy = false →
      let m := u.intoFunction vf x.idle data.bytes
      exec (.wsbcastReceive vf entry version data) s =
        .next ((if data.poisoned then m.poisonFunction vf x.idle data.bytes.length else m).devWrite vf
          (s.topNat vf 48 8 + 64 * entry + 40) 4 version)) ∧
    ((x.valid = false ∨ x.size ≠ data.bytes.length ∨ x.idleBusy = true) →
      exec (.wsbcastReceive vf entry version data) s = .next u))

/-! Objects and relays -/

/-- R196, R197, R305 to R307, R309: the object words, on a workgroup with OBJECTS, where no other core holds a line pinned. That `objopen`
of a LOST object gives 7 whoever owns it is log 38's: the model's reading. -/
def Obligations.ObjectWords : Prop :=
  ∀ (s : State) (o : Op3) (it : DIssue) (g : Workgroup), s.wgRuns o.ctl it g → it.calm g → g.hdr.objects = true →
    (∀ ln, it.s.holder it.core ln = none) →
    let a := it.engAccess g 2 0
    let b := it.s.bump
    let f := g.vf
    (g.slots.getD (slotNo o.d) .empty = .empty → slotNo o.d < g.slots.length →
      let name := (it.src o.a).toNat
      let size := (it.src o.b).toNat
      let n := slotNo o.d
      let choice := Config.freeNat it.ctr 2
      let u := b.setHandle it.core it.slot n (.pending 16 none)
      let bound (r : State) (h : HSlot) : Prop := ∃ k, r.wg? it.core it.slot = some k ∧ k.slots.getD n .empty = h
      let new := objnewRun a g n name size (o.var.getLsbD 0) (o.var.getLsbD 1) choice b
      let open_ := objopenRun a g n name (o.var.getLsbD 0) b
      ((Instr.objnew o).wf = true → ∃ t, exec (.objnew o) s = .next t ∧
        it.performs o.ctl 5 .none (objnewRun a g n name size (o.var.getLsbD 0) (o.var.getLsbD 1) choice) t) ∧
      ((Instr.objopen o).wf = true → ∃ t, exec (.objopen o) s = .next t ∧
        it.performs o.ctl 5 .none (objopenRun a g n name (o.var.getLsbD 0)) t) ∧
      (∀ d, u.spillFor a f g.region.toNat 11 = .ok d →
        ((size = 0 ∨ size % 64 ≠ 0) → new.2 = (1, 0)) ∧
        (0 < size → size % 64 = 0 → u.dirFail a d = none →
          ((u.findObj f d name).isSome = true → new.2 = (11, 0)) ∧
          (u.findObj f d name = none → (u.freeEnts f d = [] ∨ d.slot < size) → new.2 = (5, 0)) ∧
          (∀ base, u.findObj f d name = none → u.freeEnts f d ≠ [] → size ≤ d.slot → u.pickBase it.core size = some base →
            u.entFail a d (u.newEnt f d choice) = none →
            (o.var.getLsbD 0 = true → u.touchFail a (touches (d.shadow (u.newEnt f d choice)) d.slot .write) = none) →
            new.2 = (0, 0) ∧ bound new.1 (.pending 16 (some (u.newEnt f d choice, base, size, false))) ∧
            ∃ x ∈ (new.1.core it.core).areas, x.vf = f ∧ x.region = g.region ∧ x.entry = u.newEnt f d choice ∧ x.base = base ∧
              x.size = size))) ∧
      (∀ d, u.spillFor a f g.region.toNat 6 = .ok d → u.dirFail a d = none →
        (u.findObj f d name = none → open_.2 = (6, 0)) ∧
        ∀ i, u.findObj f d name = some i →
          let e := u.objEnt f d i
          (e.state = 4 → u.entFail a d i = none → open_.2 = (7, 0)) ∧
          (e.state ≠ 4 → e.owns g.lid = false → e.shr = false → open_.2 = (11, 0)) ∧
          (e.state = 1 → (e.owns g.lid = true ∨ e.shr = true) → e.berth = it.core → e.binds.all bindValid = false →
            u.entFail a d i = none →
            open_.2 = (0, 0) ∧ bound open_.1 (.pending 16 (some (i, 1024 * e.area, e.size, !e.owns g.lid)))) ∧
          (e.state = 1 → (e.owns g.lid = true ∨ e.shr = true) → e.berth ≠ it.core → o.var.getLsbD 0 = false →
            open_.2 = (10, e.berth * 2 ^ 16)))) ∧
    (∀ i base size rdo d, g.slots.getD (slotNo o.a) .empty = .bound i base size rdo →
      b.spillFor a f g.region.toNat 11 = .ok d → b.dirFail a d = none →
      let e := b.objEnt f d i
      let n := slotNo o.a
      ((Instr.objdrop o).wf = true → g.buffers base size = false → b.entFail a d i = none →
        ∃ t run, exec (.objdrop o) s = .next t ∧ it.performs o.ctl 5 .none run t ∧
        (e.owns g.lid = false → run b = (b, 11, 0)) ∧
        (e.owns g.lid = true → (∀ w ∈ e.binds, bindValid w = true → bindOf g.lid g.wgnum w = true ∧ w % 8 = n) →
          run b = (((match b.areaOf f it.core i g.region.toNat with
            | some r => b.dropArea it.core r
            | none => b).setHandle it.core it.slot n .empty).clearEnt f d i, 0, 0))) ∧
      ((Instr.objsync o).wf = true → ∃ t run, exec (.objsync o) s = .next t ∧ it.performs o.ctl 5 .none run t ∧
        (e.dur = false → run b = (b, 11, 0)) ∧
        (e.dur = true → b.touchFail a (touches (d.shadow i) size .write) = none →
          run b = (b.touchWrite a (touches (d.shadow i) size .write) ((List.range size).map fun j => s.scr it.core (base + j)), 0, 0))) ∧
      ((Instr.objhand o).wf = true → g.buffers base size = false → b.entFail a d i = none →
        ∃ t run, exec (.objhand o) s = .next t ∧ it.performs o.ctl 5 .none run t ∧
        (e.owns g.lid = false → run b = (b, 11, 0)) ∧
        (e.owns g.lid = true → o.var.getLsbD 0 = false → (it.src (.dreg (BitVec.ofNat 5 (dOf o.b)))) = 0 →
          run b = (((b.dirWrite f d.base i 24 8 1).dirWrite f d.base i 32 8 0).unbind a g d i n, 0, 0)))) ∧
    ((∀ i base size rdo, g.slots.getD (slotNo o.a) .empty ≠ .bound i base size rdo) →
      ((Instr.objdrop o).wf = true → ∃ t, exec (.objdrop o) s = .next t ∧ it.performs o.ctl 5 .none (fun u => (u, 4, 0)) t) ∧
      ((Instr.objsync o).wf = true → ∃ t, exec (.objsync o) s = .next t ∧ it.performs o.ctl 5 .none (fun u => (u, 4, 0)) t) ∧
      ((Instr.objhand o).wf = true → ∃ t, exec (.objhand o) s = .next t ∧ it.performs o.ctl 5 .none (fun u => (u, 4, 0)) t))

/-- R307, R313: a region that is torn down, or that loses a string, keeps no object area there.
R311, R332, R342: restores of parked records, steals of queued tickets, and the slices of shared strings. -/
def Obligations.RegionAndDispatchEvents : Prop :=
  (∀ (s : State) (vf : Nat) (rcb : W64),
     (s.dev vf (rcb.toNat + 16) 1 % 2 = 0 → (∀ l ∈ s.launches, l.vf = vf → l.region = rcb → l.endedAs ≠ none) →
       ∃ t, exec (.regionTeardown vf rcb) s = .next t ∧ ∀ co ∈ t.cores, ∀ x ∈ co.areas, ¬ (x.vf = vf ∧ x.region = rcb)) ∧
     (s.dev vf (rcb.toNat + 16) 1 % 2 = 1 → exec (.regionTeardown vf rcb) s = .next s) ∧
     ∀ n, (s.eff vf rcb.toNat 0 / 2 ^ n % 2 = 0 →
         (∀ j, j < 4 → (s.core (4 * n + j)).areas.Pairwise fun x y => x.base + x.size ≤ y.base ∨ y.base + y.size ≤ x.base) →
         ∃ t, exec (.stringLeavesRegion n vf rcb) s = .next t ∧
         ∀ j, j < 4 → ∀ x ∈ (t.core (4 * n + j)).areas, ¬ (x.vf = vf ∧ x.region = rcb)) ∧
       (s.eff vf rcb.toNat 0 / 2 ^ n % 2 = 1 → exec (.stringLeavesRegion n vf rcb) s = .next s)) ∧
  (∀ s : State,
     (∀ c i r, (s.core c).resume[i]? = some r → r.held = false → r.since + 1750000 ≤ s.clock →
       exec (.parkedRestoreTimeout c i) s = .next (s.restoreTry c r).2) ∧
     (∀ c i r, (s.core c).resume[i]? = some r → (r.held = true ∨ s.clock < r.since + 1750000) →
       exec (.parkedRestoreTimeout c i) s = .next s) ∧
     (∀ q i thief a l, (s.core q).affq[i]? = some a →
       s.launches.find? (fun l => l.vf == a.vf && l.image == a.image && l.endedAs == none) = some l →
       (l.skips s a.ticket = true → exec (.affinitySteal q i thief) s =
         .next (s.modCore q fun co => { co with affq := co.affq.eraseIdx i })) ∧
       (l.skips s a.ticket = false → exec (.affinitySteal q i thief) s = .next (s.startTicket thief l a.ticket).2) ∧
       (l.rd s (l.recOff s a.ticket) 1 = 0 → s.startTicket thief l a.ticket = s.startWg thief l a.ticket)) ∧
     (∀ n t0, s.sliceDue n = true → s.strings[n]? = some t0 → ∃ t t1, exec (.sliceEnd n) s = .next t ∧
       t.strings[n]? = some t1 ∧ t1.sliceAt = s.clock + 1 ∧ t1.recent = (t1.slice.getD 64 :: t0.recent).take 50 ∧
       (∀ f, t1.slice = some f → f ∈ s.functionsOf n ∧ s.hasWork n f = true) ∧ t.mem = s.mem) ∧
     ∀ n, s.sliceDue n = false → exec (.sliceEnd n) s = .next s)

/-- R16, R142, R198, R199: `relay` and `rwait`, the beginning of a relay, and the grant of a role. -/
def Obligations.RelaysAndRoles : Prop :=
  (∀ (s : State) (o : Op3) (it : DIssue) (g : Workgroup), s.wgRuns o.ctl it g →
    let p (k : Nat) : W64 := it.src (.dreg (BitVec.ofNat 5 (dOf o.a + k)))
    (∀ r, (Instr.relay o).wf = true → relayOf g (p 0) (p 1) (p 2) = some r → g.hdr.relay = true → g.relay = none →
      ∃ t, exec (.relay o) s = .next t ∧ it.performs o.ctl 6 .relay (fun u =>
        (u.modWg it.core it.slot fun g => { g.passJoins u.clock r.width with relay := some r }, 0, 0)) t) ∧
    ((Instr.rwait o).wf = true → g.relay = none → ∃ t, exec (.rwait o) s = .next t ∧
      it.leaves it.s o.ctl (dOf o.d) (BitVec.ofNat 64 g.lastDone) (it.pc + 12) t) ∧
    ((Instr.rwait o).wf = true → g.relay ≠ none → ∃ t, exec (.rwait o) s = .next t ∧ it.waits .rwait t)) ∧
  (∀ (s : State) (c k : Nat) (g : Workgroup) (r : Relay), s.wg? c k = some g → g.relay = some r → r.begun = false →
    g.joined r = true →
    (g.legless r = false → exec (.relayBegin c k) s = .next (((s.modWg c k fun g => g.beginRelay s.clock r).carryHaz c k r r.guessers).settle c k)) ∧
    (g.legless r = true → exec (.relayBegin c k) s =
      .next (((s.dropLegs c k g.vf r (List.range r.width)).modWg c k fun g => g.noRound s.clock).settle c k))) ∧
  (∀ (s : State) (c k w n : Nat) (g : Workgroup) (x : Warp), s.wg? c k = some g → g.warps[w]? = some x → x.block = .role n →
    g.roleLack x n ≤ 0 →
    exec (.roleGrant c k w) s = .next ((s.modWg c k fun g => g.grantRole w n s.clock).settle c k) ∧
    ∃ y, (g.grantRole w n s.clock).warps[w]? = some y ∧ y.role = n ∧ y.block = .none ∧
      y.count = (g.hdr.roles.getD n default).count ∧
      (∀ i L, L < 32 → i < y.count → y.lane i L = if i < x.count then x.lane i L else 0) ∧
      ∀ L, L < 32 → laneBit x.live L = true →
        y.pcOf L = g.kimg + BitVec.ofNat 64 (g.hdr.wcode + (g.hdr.roles.getD n default).entry))

/-! The system space -/

/-- R201, R294: `swrite` sets a control register, ignoring a value out of its range; `rtt` reads an effective field of a region.
R242, R247: `tlbinv` and `l2op` with status 0, or the status of their function or range. -/
def Obligations.ControlAndTranslation : Prop :=
  (∀ (s : State) (o : Op3) (it : DIssue), s.sysRuns o.ctl it →
     let n := (it.src o.b).toNat
     ((Instr.swrite o).wf = true → (it.src o.a).toNat ≤ 4 → ∃ t m, exec (.swrite o) s = .next t ∧
       it.leaves m o.ctl 0 0 (it.pc + 12) t ∧
       (it.src o.a = 0 → m = if 1 ≤ n ∧ n ≤ 1000000 then { it.s with pinwait := n } else it.s) ∧
       (it.src o.a = 1 → m = if n ≤ 10000000 then { it.s with stealb := n } else it.s) ∧
       (it.src o.a = 2 → m = if 1 ≤ n ∧ n ≤ 16 then { it.s with parkth := n } else it.s) ∧
       (it.src o.a = 3 → m = { it.s with dispstop := it.src o.b }) ∧
       (it.src o.a = 4 → m = if it.wg = none ∧ n < 256 ∧ n / 64 % 2 = 0 then
         it.s.modOstler it.core fun x => { x with ctx := BitVec.ofNat 8 n } else it.s)) ∧
     ((Instr.swrite o).wf = true → 4 < (it.src o.a).toNat → ∀ g, it.wg = some g →
       exec (.swrite o) s = .next (it.s.raiseTrap it.core it.slot 16 { cls := .ill })) ∧
     ((Instr.rtt o).wf = true → it.wg = none → it.heldBack = true → exec (.rtt o) s = it.again) ∧
     ((it.wg = none → it.heldBack = false) →
      it.pinned (((it.src o.a).toNat :: (rcbChain it.reader 8 (it.src o.a).toNat).getD []).map fun x => (x, 256)) = none →
     (∀ ch, (Instr.rtt o).wf = true → n ≤ 14 → rcbChain it.reader 8 (it.src o.a).toNat = some ch → ∃ t, exec (.rtt o) s = .next t ∧
       it.leaves it.s o.ctl (dOf o.d) (BitVec.ofNat 64 (if n = 2 ∨ n = 4 then popNat 512 (rcbEff it.reader n ch) else
         rcbEff it.reader n ch)) (it.pc + 12) t) ∧
     ((Instr.rtt o).wf = true → (14 < n ∨ rcbChain it.reader 8 (it.src o.a).toNat = none) → ∃ t, exec (.rtt o) s = .next t ∧
       it.leaves it.s o.ctl (dOf o.d) 0xFFFF_FFFF_FFFF_FFFF (it.pc + 12) t))) ∧
  (∀ (s : State) (o : Op3) (it : DIssue), s.sysRuns o.ctl it →
     let answers (i : Instr) (m : State) (st : Nat) : Prop :=
       ∃ t, exec i s = .next t ∧ it.leaves m o.ctl (dOf o.d) (BitVec.ofNat 64 st) (it.pc + 12) t
     (∀ f, it.vfArg (it.src o.b) = .ok f →
       ((Instr.tlbinvPg o).wf = true → answers (.tlbinvPg o) (it.s.tlbinv (.page f (it.src o.a).toNat)) 0) ∧
       ((Instr.tlbinvVf o).wf = true → answers (.tlbinvVf o) (it.s.tlbinv (.vf f)) 0)) ∧
     (∀ st, it.vfArg (it.src o.b) = .error st →
       ((Instr.tlbinvPg o).wf = true → answers (.tlbinvPg o) it.s st) ∧ ((Instr.tlbinvVf o).wf = true → answers (.tlbinvVf o) it.s st)) ∧
     ((Instr.tlbinvAll o).wf = true → answers (.tlbinvAll o) (it.s.tlbinv .all) 0) ∧
     (∀ f, it.vfArg (it.src o.a) = .ok f → s.memBad = [] → (Instr.l2opVfwb o).wf = true →
       answers (.l2opVfwb o) { it.s with l2 := it.s.l2.map fun l => if l.vf = f then { l with dirty := false } else l } 0) ∧
     (∀ ls, it.rangeLines (it.src o.a).toNat (it.src o.b).toNat = some ls → s.memBad = [] →
       ((Instr.l2opWb o).wf = true →
         answers (.l2opWb o) { it.s with l2 := it.s.l2.map fun l => if l.line ∈ ls then { l with dirty := false } else l } 0) ∧
       ((Instr.l2opInv o).wf = true →
         answers (.l2opInv o) { it.s with l2 := it.s.l2.filter fun l => l.dirty || decide (l.line ∉ ls) } 0) ∧
       ((Instr.l2opWbi o).wf = true →
         answers (.l2opWbi o) { it.s with l2 := it.s.l2.filter fun l => decide (l.line ∉ ls) } 0)) ∧
     (63 < (it.src o.b).toNat → it.vfArg (it.src o.b) = .error 1) ∧
    ∀ v : Inval, (∀ co ∈ s.cores, co.resume = []) → ∀ co ∈ (s.tlbinv v).cores, ∀ e ∈ co.tlb, v.drops e = false)

/-- R200, R334: `ctxsave`, `ctxload`, `halt` and `wgstart`, with the statuses that they give where they do nothing. Status 1 of
`ctxload`, and 6 of `ctxsave` and `halt`, for a slot above 7, and 6 of `ctxsave` on an empty slot, are log 36's: the model's reading. -/
def Obligations.ContextWords : Prop :=
  ∀ (s : State) (o : Op3) (it : DIssue), s.sysRuns o.ctl it →
    let k := (it.src o.b).toNat
    let va := (it.src o.a).toNat
    let answers (i : Instr) (m : State) (st : Nat) : Prop :=
      ∃ t, exec i s = .next t ∧ it.leaves m o.ctl (dOf o.d) (BitVec.ofNat 64 st) (it.pc + 12) t
    let tracks (f : State → Nat → State) (m : State) : State := match it.ctx with | some v => f m v | none => m
    let free := it.wg = none → it.heldBack = false
    (it.wg = none → it.heldBack = true →
      ((Instr.ctxsave o).wf = true → (it.s.wg? it.core k).isSome = true → it.foreign k = false → exec (.ctxsave o) s = it.again) ∧
      ((Instr.ctxload o).wf = true → exec (.ctxload o) s = it.again) ∧
      ((Instr.wgstart o).wf = true → exec (.wgstart o) s = it.again)) ∧
    ((Instr.ctxsave o).wf = true → it.s.wg? it.core k = none → answers (.ctxsave o) it.s 6) ∧
    (∀ g, (Instr.ctxsave o).wf = true → it.s.wg? it.core k = some g →
      (it.foreign k = true → answers (.ctxsave o) it.s 11) ∧
      (it.foreign k = false → free → it.reaches va (recBytes g.hdr) .write = false → answers (.ctxsave o) it.s 2) ∧
      (it.foreign k = false → free → it.reaches va (recBytes g.hdr) .write = true → it.pinned [(va, recBytes g.hdr)] = none →
        g.saveWaits (it.s.core it.core).passesRun false = true → exec (.ctxsave o) s = it.haltAndWait k) ∧
      (it.foreign k = false → free → it.reaches va (recBytes g.hdr) .write = true → it.pinned [(va, recBytes g.hdr)] = none →
        g.saveWaits (it.s.core it.core).passesRun false = false → ∃ t u h, exec (.ctxsave o) s = .next t ∧
          it.leaves it.s o.ctl (dOf o.d) (if (it.s.core it.core).badWindow g then 3 else 0) (it.pc + 12) u ∧
          u.wg? it.core k = some h ∧
          t = tracks (fun m v => m.trackRange v va (recBytes h.hdr))
            ((u.saveWg (it.recMap va .write) it.core k h (o.var.getLsbD 0) none).holdRecord it.core h))) ∧
    ((Instr.ctxload o).wf = true → free → it.reaches va 64 .rw = false → answers (.ctxload o) it.s 2) ∧
    ((Instr.ctxload o).wf = true → free → it.reaches va 64 .rw = true → 8 ≤ k → answers (.ctxload o) it.s 1) ∧
    (∀ l n, (Instr.ctxload o).wf = true → free → it.reaches va 64 .rw = true → k < 8 → it.foreign k = false →
      it.s.recordAt (it.recMap va .read) = some (l, n) → it.reaches va (recBytes (hdrFields (l.hdrRd it.s))) .read = true →
      it.pinned [(va, recBytes (hdrFields (l.hdrRd it.s)))] = none →
      let r := it.s.loadInto (it.recMap va .read) it.core k l n
      answers (.ctxload o) (if r.1 = 0 ∨ r.1 = 3 then tracks (fun m v => m.track v va) r.2 else r.2) r.1) ∧
    ((Instr.halt o).wf = true → it.s.wg? it.core k = none → answers (.halt o) it.s 6) ∧
    ((Instr.halt o).wf = true → (it.s.wg? it.core k).isSome = true → it.foreign k = true → answers (.halt o) it.s 11) ∧
    ((Instr.halt o).wf = true → (it.s.wg? it.core k).isSome = true → it.foreign k = false → ∃ t u, exec (.halt o) s = .next t ∧
      it.leaves it.s o.ctl (dOf o.d) 0 (it.pc + 12) u ∧ t = u.modWg it.core k fun g => { g with halted := true }) ∧
    (∀ e, (Instr.wgstart o).wf = true → free → it.s.xlate it.core it.ctx va .read = .error e → answers (.wgstart o) it.s 2) ∧
    (∀ pa, (Instr.wgstart o).wf = true → free → it.s.xlate it.core it.ctx va .read = .ok pa →
      (it.s.launchAt pa = none → answers (.wgstart o) it.s 1) ∧
      ∀ l, it.s.launchAt pa = some l →
        it.pinned [(va, 320), (va + l.dtab it.s, 64), (va + l.recOff it.s k, 8)] = none → answers (.wgstart o) (it.s.startWg it.core l k).2 (it.s.startWg it.core l k).1)

/-- R202, R203: `qclaim` takes the next value of a counter below its limit and advances it; `draint` and `scrub`. Where the own core holds
the counter's line dirty, the read is of those bytes by log 45: the model's reading of R222, R228 and R233. -/
def Obligations.ClaimsAndScrubs : Prop :=
  ∀ (s : State) (o : Op3) (it : DIssue), s.Mem → s.atRest → s.sysRuns o.ctl it →
    let va := (it.src o.a).toNat
    let lim := (it.src o.b).toNat
    let acc : Access := { core := it.core, slot := 8, vf := it.tag, scope := 2, sid := 0, cpol := 0 }
    let answers (i : Instr) (m : State) (st : Nat) : Prop :=
      ∃ t, exec i s = .next t ∧ it.leaves m o.ctl (dOf o.d) (BitVec.ofNat 64 st) (it.pc + 12) t
    (∀ pa, (Instr.qclaim o).wf = true → va % 8 = 0 → it.s.xlate it.core it.ctx va .rw = .ok pa →
      it.s.holder it.core (lineOf pa) = none → it.regs pa = none → it.s.accPoison acc ((List.range 8).map (pa + ·)) = false →
      (it.wg = none → it.heldBack = false) → it.s.counterAt it.core pa = .other → s.frameHazards = [] → s.ruined = [] →
      let c := leNat ((List.range 8).map fun i => s.devByte it.core (pa + i))
      (c < lim → ∃ m, it.onlyMem m ∧ answers (.qclaim o) m c ∧ ∀ a, (∀ f, it.ctx = some f → ¬ s.tracked f a) →
        m.devByte it.core a = (Bytes.put (s.devByte it.core) (((List.range 8).map (pa + ·)).zip (leBytes 8 (c + 1)))) a) ∧
      (lim ≤ c → ∃ m, it.onlyMem m ∧ answers (.qclaim o) m (2 ^ 64 - 1) ∧ ∀ a, m.devByte it.core a = s.devByte it.core a)) ∧
    (∀ f, it.vfArg (it.src o.a) = .ok f →
      ((Instr.draint o).wf = true → it.s.runs f = true → answers (.draint o) it.s 11) ∧
      ((Instr.draint o).wf = true → it.s.runs f = false →
        answers (.draint o) (it.s.modVf f fun v => { v with drained := true, heldBack := true }) 0) ∧
      ((Instr.scrub o).wf = true → (it.s.runs f = true ∨ (it.s.vf f).drained = false) → answers (.scrub o) it.s 11) ∧
      ((Instr.scrub o).wf = true → it.s.runs f = false → (it.s.vf f).drained = true → answers (.scrub o) (it.s.scrub f) 0)) ∧
    (∀ f, ∀ co ∈ (s.scrub f).cores, ∀ l ∈ co.l1, l.vf ≠ f)

/-- R200, R201, R346, R349, R350, R356: operating points, of which the one that is set is taken anew from the margin section of flash; a
string's parameters; and gating. That only the point which `pwrset` names is re-planned, and that `gate.now` judges by the present cycle whether the string is idle, and gives 11 on a string that
wakes and 0 or 11 on a gated one, is log 33's: the model's choice. -/
def Obligations.PowerWords : Prop :=
  ∀ (s : State) (o : Op3) (it : DIssue), s.sysRuns o.ctl it →
    let n := (it.src o.a).toNat
    let w := (it.src o.b).toNat
    let answers (i : Instr) (m : State) (st : Nat) : Prop :=
      ∃ t, exec i s = .next t ∧ it.leaves m o.ctl (dOf o.d) (BitVec.ofNat 64 st) (it.pc + 12) t
    (let u := it.s.replanned n w
     ((Instr.pwrset o).wf = true → answers (.pwrset o)
       (if n ≤ 3 ∧ w ≤ 15 ∧ u.opPoint n w ≠ 0 ∧ u.boardPower n w ≤ 2200000 then u.setPoint n w else it.s)
       (if 3 < n ∨ 15 < w ∨ u.opPoint n w = 0 then 1 else if 2200000 < u.boardPower n w then 11 else 0)) ∧
     (n ≤ 3 → w ≤ 15 → ∀ r k, r ≤ 3 → k ≤ 15 → ¬ (r = n ∧ k = w) → u.opPoint r k = it.s.opPoint r k)) ∧
    ((Instr.strset o).wf = true → (63 < n ∨ w / 2 ^ 16 % 256 = 0 ∨ w % 256 = 0 ∨ 50 < w % 256) → answers (.strset o) it.s 1) ∧
    ((Instr.strset o).wf = true → n ≤ 63 → 1 ≤ w / 2 ^ 16 % 256 → 1 ≤ w % 256 → w % 256 ≤ 50 →
      answers (.strset o) (it.s.modString n fun t => { t with refill := w / 2 ^ 16 % 256, bcap := w / 2 ^ 8 % 256, imbth := w % 256 }) 0) ∧
    (n ≤ 63 →
      ((Instr.gateNow o).wf = true → (it.s.string n).gate = .awake → (it.s.string n).hold = false → it.core / 4 ≠ n →
        it.s.stringIdle n = true → answers (.gateNow o) (it.s.gateStart n) 0) ∧
      ((Instr.gateNow o).wf = true → (it.s.string n).gate = .awake →
        ((it.s.string n).hold = true ∨ it.core / 4 = n ∨ it.s.stringIdle n = false) →
        answers (.gateNow o) it.s 11) ∧
      (∀ since, (Instr.gateNow o).wf = true → (it.s.string n).gate = .waking since → answers (.gateNow o) it.s 11) ∧
      ((Instr.gateNow o).wf = true → (it.s.string n).gate = .gated →
        answers (.gateNow o) it.s (if (it.s.string n).hold then 11 else 0)) ∧
      ((Instr.gateWake o).wf = true → answers (.gateWake o) (it.s.modString n fun t =>
        match t.gate with
        | .gated => { t with gate := .waking (s.clock + 5250) }
        | .gating _ => { t with gate := .gating true }
        | _ => t) 0) ∧
      ((Instr.gateHold o).wf = true → answers (.gateHold o) (it.s.modString n fun t => { t with hold := true }) 0) ∧
      ((Instr.gateAuto o).wf = true → answers (.gateAuto o) (it.s.modString n fun t => { t with hold := false }) 0)) ∧
    (63 < n → ((Instr.gateNow o).wf = true → answers (.gateNow o) it.s 1) ∧ ((Instr.gateWake o).wf = true → answers (.gateWake o) it.s 1))

/-- R368 to R370: the root of trust: what `rtcall` measures, verifies and signs, and bring-up, which measures each image once it has
verified it. The verification of signatures is opaque (log 30, DESIGN CHOICE), and SHA3 is that of FIPS 202 (log 30, PRESUMED). That the
request and its input are read as the calling core sees them, and that pinned lines make the word wait, is log 60's: the model's
reading. -/
def Obligations.RootOfTrust : Prop :=
  (∀ (s : State) (o : Op3) (it : DIssue), s.sysRuns o.ctl it →
    let r := it.s.rtcall it.core (it.src o.a).toNat (it.src o.b).toNat
    it.s.rtPinned it.core (it.src o.a).toNat (it.src o.b).toNat = none →
    let does (i : Instr) : Prop :=
      ∃ t, exec i s = .next t ∧ it.leaves r.2 o.ctl (dOf o.d) (BitVec.ofNat 64 r.1) (it.pc + 12) t
    ((Instr.rtcallMeasure o).wf = true → does (.rtcallMeasure o)) ∧ ((Instr.rtcallVerify o).wf = true → does (.rtcallVerify o)) ∧
    ((Instr.rtcallQuote o).wf = true → does (.rtcallQuote o)) ∧
    ((Instr.rtcallMarginSignature o).wf = true → does (.rtcallMarginSignature o))) ∧
  (∀ (s : State) (c pa b : Nat), (2 < b ∨ pa % 64 ≠ 0) → s.rtcall c pa b = (1, s)) ∧
  (∀ (s : State) (c pa : Nat), pa % 64 = 0 → s.rangeFail pa 64 = 0 → (s.request c pa).bad pa = false →
    s.rangeFail (s.request c pa).inAddr (s.request c pa).inLen = 0 → s.frameHazards = [] → s.ruined = [] →
    let i := (s.request c pa).w8 % 8
    let input := (List.range (s.request c pa).inLen).map fun j => s.devByte c ((s.request c pa).inAddr + j)
    s.rtcall c pa 0 = (0, { s with mr := s.mr.set i (sha3 (s.mr.getD i (List.replicate 32 0) ++ sha3 input)) })) ∧
  (∀ s : State, (s.up = true ∨ s.brickd = true → exec .bringUp s = .next s) ∧
    (s.up = false → s.brickd = false → ∃ t, exec .bringUp s = .next t ∧
      if firmwareOk = false then t = { s with brickd := true }
      else if configOk s.flash = false then
        t = { s with mr := s.mr.set 0 (sha3 (s.mr.getD 0 (List.replicate 32 0) ++ sha3 firmwareImage)), brickd := true }
      else t.up = true ∧ t.brickd = false ∧ t.img = cfgOf s.flash ∧
          ∀ co ∈ t.cores, co.ostler.started = true ∧ co.ostler.pc = Config.ostlerEntry))

/-! Events -/

/-- R211 to R214, R229, R331, R332, R338, R311: what happens to a workgroup when its time has come. That the block of an expired
deadline stands as the workgroup's latest header is log 48's reading of R331, and the PIN of a waiting store of a leg log 17's. -/
def Obligations.WorkgroupEvents : Prop :=
  ∀ (s : State) (c k : Nat) (g : Workgroup), s.wg? c k = some g →
    (∀ w, g.halted = false → (g.warps.getD w default).starving s.clock = true →
      exec (.warpPromotion c k w) s = .next (s.modWarp c k w fun x => { x with promo := true })) ∧
    (∀ line addr since h, g.halted = false → g.drv.block = .pin line addr since → since + s.pinwait * 1750 ≤ s.clock →
      s.holder c line = some h →
      exec (.pinwaitExpiry c k .driver) s = .next (s.raiseTrap c k 16 { cls := .pin, x := addr, holder := h })) ∧
    (∀ w x line addr since h, g.halted = false → g.warps[w]? = some x → x.block = .pin line addr since →
      since + s.pinwait * 1750 ≤ s.clock → s.holder c line = some h →
      exec (.pinwaitExpiry c k (.warp w)) s = .next (s.raiseTrap c k w { cls := .pin, x := addr, holder := h })) ∧
    (∀ w x line addr since h leader held, g.halted = false → g.warps[w]? = some x → (∀ l a t, x.block ≠ .pin l a t) → leader < 8 →
      x.waits = [{ leader, held, kind := .pin line addr since }] → since + s.pinwait * 1750 ≤ s.clock → s.holder c line = some h →
      exec (.pinwaitExpiry c k (.warp w)) s =
        .next (s.warpTrap c k w { cls := .pin, x := addr, holder := h, pc := some (x.gangOf leader).pc })) ∧
    (∀ d, k < 8 → g.deadline = some d → d ≤ s.wtime g → ∃ t h b, exec (.timerDeadline c k) s = .next t ∧ t.wg? c k = some h ∧
      h = { g with deadline := none, trapHdr := b } ∧ (t.core c).trapq.getLast? = some [b] ∧ b >>> 60 = 11 ∧ b.setWidth 32 = BitVec.ofNat 32 g.lid) ∧
    (∀ d, g.deadline = some d → s.wtime g < d → exec (.timerDeadline c k) s = .next s) ∧
    (∀ w, (g.warps.getD w default).starving s.clock = false → exec (.warpPromotion c k w) s = .next s)

/-- R262, R263, R347, R349, R350: beats, node updates and gating of a string. -/
def Obligations.StringEvents : Prop :=
  ∀ (s : State) (n : Nat) (x : StringSt), s.strings[n]? = some x →
    (s.beatDue n = true →
      let live := (stringCores n).filter fun c => !(s.core c).lost
      let ready := live.filter fun c => (s.core c).passes != 0
      let b0 := min x.budget x.bcap
      let budget := if x.beat % x.refill = 0 ∧ b0 < x.bcap then b0 + 1 else b0
      let stalls := x.imbalanced || (!ready.isEmpty && ready.length != live.length && x.bcap != 0 && budget == 0)
      let spends := !x.imbalanced && !ready.isEmpty && ready.length != live.length && x.bcap != 0 && budget != 0
      ∃ t y, exec (.stringBeat n) s = .next t ∧ t.strings[n]? = some y ∧ y.beat = x.beat + 1 ∧ y.beatAt = s.clock + 1 ∧
        y.budget = (if spends then budget - 1 else budget) ∧
        y.nPasses = x.nPasses + BitVec.ofNat 64 (if stalls then 0 else ready.length) ∧
        y.nSkip = x.nSkip + (if stalls then 1 else 0) ∧
        (∀ c, c ∈ ready → c < s.cores.length →
          (t.core c).passes = (if stalls then (s.core c).passes else (s.core c).passes - 1) ∧
          (t.core c).passesRun = (s.core c).passesRun + if stalls then 0 else 1) ∧ t.mem = s.mem) ∧
    (∀ a b c : Byte, exec (.strimbUpdate n a b c) s = .next (s.modString n fun t =>
      { t with node0 := (if a = 0x80 then 0x81 else a), node1 := (if b = 0x80 then 0x81 else b),
               node2 := (if c = 0x80 then 0x81 else c), credit := t.budget, strimbAt := s.clock + 1 })) ∧
    (x.gate = .awake → x.hold = false → x.idleSince + 87500 ≤ s.clock → s.stringIdle n = true →
      exec (.autoGate n) s = .next (s.gateStart n)) ∧
    (∀ w, x.gate = .gating w → exec (.gatingSequenceEnd n) s = .next (s.modString n fun t =>
      { t with gate := (if w then .waking (s.clock + 5250) else .gated) })) ∧
    (∀ d, x.gate = .waking d → d ≤ s.clock → ∃ t y, exec (.wakeComplete n) s = .next t ∧ t.strings[n]? = some y ∧
      y.gate = .awake ∧ y.beat = 1 ∧ y.budget = x.bcap ∧ t.mem = s.mem) ∧
    ((s.gateStart n).string n).gate = .gating false ∧ ∀ j, j < 4 → ((s.gateStart n).core (4 * n + j)).l1 = []

/-- R346, R348, R350 to R352, R355, R358, R359: rails, core loss, and the end of a cycle. A string is counted as gated until its wake is
complete, and as no other. That the cycles of a wake count as gated, and that the SRAM level moves at once at the end of a window, is
log 33's (DESIGN CHOICE); an uncorrectable error of the
same cycle cancels the step down (R358). -/
def Obligations.RailsAndCycles : Prop :=
  ∀ s : State,
    (∃ t, exec .chargeRecordUpdate s = .next t ∧ t.clock = s.clock + 1 ∧ t.mem = s.mem ∧ ∀ (n : Nat) (x : StringSt),
      s.strings[n]? = some x → ∃ y, t.strings[n]? = some y ∧ y.charging = 0 ∧
        y.charge = min 65535 (x.charge * 63 / 64 + x.charging) ∧
        y.nGated = x.nGated + (match x.gate with | .gated => 1 | .waking _ => 1 | _ => 0)) ∧
    (∀ n r, s.rails[2]? = some r → r.ramp = none →
      let p := s.opPoint 2 r.point
      let vmv := p % 65536
      let step := p / 2 ^ 36 % 16
      let below := p / 2 ^ 40 % 256 * step
      ∃ t q, exec (.sramRailWindow n) s = .next t ∧ t.sramCe = 0 ∧ t.rails[2]? = some q ∧ q.point = r.point ∧ q.hold = r.hold ∧ q.level =
        if p / 2 ^ 56 % 256 < n then min (max vmv r.level) (r.level + step)
        else if n < p / 2 ^ 48 % 256 ∧ vmv + step ≤ r.level + below ∧ r.hold = none ∧ r.errAt ≠ s.clock + 1 then r.level - step
        else r.level) ∧
    (∀ t0 r, s.rails[2]? = some r → r.hold = some t0 → t0 ≤ s.clock → ∃ t r', exec .railHoldEnd s = .next t ∧ t.rails[2]? = some r' ∧
      r' = { r with hold := none }) ∧
    (∀ t0 r, s.rails[2]? = some r → r.hold = some t0 → s.clock < t0 → exec .railHoldEnd s = .next s) ∧
    (∀ n r t0, s.rails[n]? = some r → r.ramp = some t0 → t0 ≤ s.clock → exec (.operatingPointReached n) s =
      .next { s with rails := s.rails.set n { r with level := r.target, ramp := none } }) ∧
    (∀ n r t0, s.rails[n]? = some r → r.ramp = some t0 → s.clock < t0 → exec (.operatingPointReached n) s = .next s) ∧
    (∀ c, c < s.cores.length → (s.core c).lost = false → ∃ t, exec (.coreLoss c) s = .next t ∧ (t.core c).lost = true ∧
      (t.core c).ostler.started = false ∧ t.pfMsix = s.pfMsix + 1) ∧
    (∀ c, (s.core c).lost = true → exec (.coreLoss c) s = .next s)

/-- R296, R337, R340, R362: what the host does to a function: notifies, PAUSE, TIME, QTAIL, registers, and a reset. A notify or a write of
QTAIL beyond the ring stops the queue, with CLASS 13 and the queue's number in FAULTREC. -/
def Obligations.FunctionEvents : Prop :=
  ∀ (s : State) (f : Nat) (v : Vf), s.vfs[f]? = some v →
    (∀ q t, (v.flr = true ∨ (v.queue q).stopped = true) → exec (.queueNotify f q t) s = .next s) ∧
    (∀ (q : Nat) (t : W32) (head n : Nat), v.flr = false → (v.queue q).stopped = false → q < v.queues.length →
      s.queueFail f (s.queueVa f q) 32 = none → head = s.dev f (s.queueVa f q + 16) 8 →
      n = s.dev f (s.queueVa f q + 8) 4 → n ≠ 0 → (t - BitVec.ofNat 32 head).toNat ≤ n →
      exec (.queueNotify f q t) s = .next (s.modVf f fun v =>
        { v with queues := v.queues.modify q fun x => { x with tail := head + (t - BitVec.ofNat 32 head).toNat } })) ∧
    (v.pause = false → ∃ t u, exec (.vfPauseWrite f true) s = .next t ∧ t.vfs[f]? = some u ∧ u.pause = true ∧
      u.time = BitVec.ofNat 64 (s.timeOf f) ∧ t.dispstop = s.dispstop ||| BitVec.ofNat 64 (2 ^ f) ∧ t.mem = s.mem) ∧
    (v.pause = true → exec (.vfPauseWrite f true) s = .next s) ∧
    (v.pause = true → v.flr = false → ∃ t u, exec (.vfPauseWrite f false) s = .next t ∧ t.vfs[f]? = some u ∧ u.pause = false ∧
      u.timeAt = s.clock ∧ t.dispstop = s.dispstop &&& ~~~ BitVec.ofNat 64 (2 ^ f) ∧ t.mem = s.mem) ∧
    (∀ x, s.paused f = true → exec (.vfTimeWrite f x) s = .next (s.modVf f fun v => { v with time := x })) ∧
    (∀ x, s.paused f = false → exec (.vfTimeWrite f x) s = .next s) ∧
    (∀ q t, s.paused f = false → exec (.vfQtailWrite f q t) s = .next s) ∧
    (∀ (q : Nat) (t : W32) (head n : Nat), s.paused f = true → s.queueFail f (s.queueVa f q) 32 = none →
      head = s.dev f (s.queueVa f q + 16) 8 → n = s.dev f (s.queueVa f q + 8) 4 →
      (t - BitVec.ofNat 32 head).toNat ≤ n →
      exec (.vfQtailWrite f q t) s = .next (s.modVf f fun v =>
        { v with queues := v.queues.modify q fun x => { x with tail := head + (t - BitVec.ofNat 32 head).toNat } })) ∧
    (∀ (q : Nat) (t : W32) (head n : Nat), q < 16 → s.queueFail f (s.queueVa f q) 32 = none →
      head = s.dev f (s.queueVa f q + 16) 8 → n = s.dev f (s.queueVa f q + 8) 4 → n ≠ 0 → n < (t - BitVec.ofNat 32 head).toNat →
      let stopped := .next ((s.modVf f fun v => { v with queues := v.queues.modify q fun x => { x with stopped := true } }).faultRec f none
        (13 * 2 ^ 60 + 16 * 2 ^ 55 + q))
      (v.flr = false → (v.queue q).stopped = false → exec (.queueNotify f q t) s = stopped) ∧
      (s.paused f = true → exec (.vfQtailWrite f q t) s = stopped)) ∧
    (∀ x, exec (.registerWrite (f + 1) 0 x) s = .next (s.modVf f fun v => { v with qtab := x })) ∧
    (∀ (q : Nat) (x : W64), q < 16 → exec (.registerWrite (f + 1) (0x1000 + 8 * q) x) s =
      exec (.queueNotify f q (x.setWidth 32)) s) ∧
    (v.flr = false → ∃ t u, exec (.flrRequest f) s = .next t ∧ t.vfs[f]? = some u ∧ u.flr = true ∧ u.pause = true) ∧
    (v.flr = true → exec (.flrRequest f) s = .next s)

/-- R236, R361, R365, R367: host and peer accesses, and Towpath flits. What a read of a register block through a BAR answers is log
62's, and the operation of a peer on a bucket of a table here is log 23's: the model's choices. -/
def Obligations.LinkEvents : Prop :=
  (∀ (s : State) (x : HostAccess), s.Mem → s.frameHazards = [] → s.ruined = [] →
    let r := accessRange x
    let done (i : Instr) : Prop := ∃ t, exec i s = .next t ∧ t.Mem ∧ (∀ c, (t.core c).slots = (s.core c).slots) ∧
      (match x with
       | .read a n => t.hostData = t.mem.bytes a n
       | .write a d _ => ∀ i, i < d.length → t.mem.read (a + i) = d.getD i 0
       | .bar fn off n => t.hostData = (List.range n).map fun i => s.barByte fn (off + i)
       | .bucket a key mode h =>
         let u := (rangeLines a 1536).foldl (fun u ln => u.forceWriteBack ln) s
         let q := u.peerBucket a mode h ((List.range 26).map fun i => leNat ((key.drop (8 * i)).take 8))
         (rangeLines a 1536).any u.poison.contains = false →
           t.hostData = leBytes 8 q.2.1 ++ leBytes 8 (q.2.2.2 + q.2.2.1) ∧ t.mem = q.1.mem) ∧
      ∀ c l, l ∈ (t.core c).l1 → l.isDirty = true → r.2 ≠ 0 → ¬ (r.1 / 64 ≤ l.line ∧ l.line ≤ (r.1 + r.2 - 1) / 64)
    (r.1 + r.2 ≤ Config.hbmBytes → isBucket x = false → done (.hostCxlMemAccess x)) ∧
    (Config.hostBase ≤ r.1 → isBucket x = false → done (.hostCxlCacheAccess x)) ∧
    (r.2 ≠ 0 → populated r.1 = true → populated (r.1 + r.2 - 1) = true → done (.towpathPeerAccess x)) ∧
    (Config.hbmBytes < r.1 + r.2 → exec (.hostCxlMemAccess x) s = .next s)) ∧
  (∀ (s : State) (n seq : Nat) (p : Port), s.ports[n]? = some p → p.down = false →
    (∀ data, ∃ t q, exec (.flitReceive n seq data false true) s = .next t ∧ t.ports[n]? = some q ∧
      q = { p with answer := (1, seq) }) ∧
    (∀ data, ∃ t q, exec (.flitReceive n seq data true false) s = .next t ∧ t.ports[n]? = some q ∧
      q = { p with answer := (2, seq) }) ∧
    (∀ data, ∃ t q, exec (.flitReceive n seq data true true) s = .next t ∧ t.ports[n]? = some q ∧
      (seq = p.rxSeq → q.delivered = p.delivered ++ [data] ∧ q.rxSeq = (seq + 1) % 4096) ∧ (seq ≠ p.rxSeq → q = p)) ∧
    (seq ∈ p.buffer.map (·.1) → (p.replaying ≠ seq ∨ p.replays < 15) →
      (∃ t q, exec (.nakReceive n seq) s = .next t ∧ t.ports[n]? = some q ∧ q.down = false ∧
        q.resent = p.resent ++ (p.buffer.map (·.1)).dropWhile (· != seq)) ∧
      (∃ t q, exec (.flitRetryTimer n seq) s = .next t ∧ t.ports[n]? = some q ∧ q.down = false ∧
        q.resent = p.resent ++ (p.buffer.map (·.1)).filter (· == seq))) ∧
    (seq ∈ p.buffer.map (·.1) → p.replaying = seq → p.replays = 15 →
      ∃ t q, exec (.nakReceive n seq) s = .next t ∧ t.ports[n]? = some q ∧ q.down = true ∧ q.downLog = p.downLog ++ [s.clock])) ∧
  (∀ (s : State) (c k : Nat) (g : Workgroup), s.wg? c k = some g → ∃ t h, exec (.towpathTimeout c k) s = .next t ∧
    t.wg? c k = some h ∧ h.open_ = g.open_.map (fun q =>
      match q.pend with
      | .peer since => if since + s.img.towto * 1750 ≤ s.clock ∨ s.portFor g.vf = none then { q with status := 7, pend := .none } else q
      | _ => q) ∧ h.warps = g.warps ∧ h.drv = g.drv ∧ t.mem = s.mem)

/-! The whole machine -/

/-- What a core's word is: the bytes at the PC of the agent that the scheduler or the front-end chooses, decoded, and executed with
that agent in turn; before it, stores that have left an L1 for registers, an event that has arrived, or whose time has come; after the
words of the cycle, the late events. A word that gates a string comes after those of all other cores. The order among cores, events,
errors and registers is the model's choice: logs 35, 9, 49 and 6. A word under a lock that another gang holds waits (R83). -/
def Obligations.StepRunsDecoded : Prop :=
  ∀ s : State, s.brickd = false → s.up = true → (s.regQueue ≠ [] → step s = .next s.settleRegs) ∧ (s.regQueue = [] →
    (∀ u r, s.upsets = u :: r → step s = .next (({ s with upsets := r } : State).suffer u)) ∧
    (∀ i r, s.upsets = [] → s.inputs = i :: r → fromOutside i = true → step s = exec i { s with inputs := r }) ∧
    (∀ i t, s.upsets = [] → s.inputs = [] → s.dueEvent = some (.run i t) → step s = exec i t) ∧
    (∀ t, s.upsets = [] → s.inputs = [] → s.dueEvent = some (.done t) → step s = .next t) ∧
    (s.upsets = [] → s.inputs = [] → s.dueEvent = none → s.sleeper = none → (∀ c, c < s.cores.length → s.runCore c = none) →
      (∀ i t, s.lateEvent = some (.run i t) → step s = exec i t) ∧ (∀ t, s.lateEvent = some (.done t) → step s = .next t)) ∧
    (s.upsets = [] → s.inputs = [] → s.dueEvent = none → s.sleeper = none → ∀ c, c < s.cores.length → s.coreRuns c = true →
      (∀ b, b < c → s.runCore b = none) →
      let last (i : Instr) : Prop := (∀ o, i = .gateNow o → ∀ b, c < b → b < s.cores.length → s.runCore b = none)
      (∀ q first x g gang l, s.choices c = some (q, first, x) → s.wg? c x.slot = some g → x.wp.pick = some gang →
        s.lockOf c g x.wp gang = some l → step s = .next (s.modWarp c x.slot x.w fun y =>
          { y with waits := { leader := gang.leader, held := true, kind := .lock l } :: y.waits.filter fun z => z.leader != gang.leader })) ∧
      (∀ q first x g0 g gang pa i, s.choices c = some (q, first, x) → s.wg? c x.slot = some g0 → s.lockOf c g0 x.wp gang = none →
        let u := (if first then (List.range Config.nSlots).foldl (fun u k => u.modWg c k (Workgroup.passOver q)) s else s).modWarp
          c x.slot x.w fun _ => { x.wp with passed := false }
        let t : State := { u with cur := { core := c, slot := x.slot, agent := .warp x.w } }
        u.wg? c x.slot = some g → x.wp.pick = some gang → x.wp.rep.active = false →
        t.translate c g.vf gang.pc.toNat .fetch = .ok pa → gang.pc.toNat % 65536 ≤ 65524 → decodeBytes (s.mem.bytes pa 12) = .ok i →
        (warpCtl i).isSome = true → step s = exec i (t.tlbFill c g.vf gang.pc.toNat)) ∧
      (s.choices c = none → (s.core c).feAt ≠ s.clock + 1 →
        (∀ k g pa i, s.ostlerReady c = false → s.chosenDriver c = some k →
          let u := s.modCore c fun co => { co with feAt := s.clock + 1, feOstler := false, feNext := (k + 1) % 8 }
          let t : State := { u with cur := { core := c, slot := k, agent := .driver } }
          u.wg? c k = some g → t.translate c g.vf g.drv.pc.toNat .fetch = .ok pa → g.drv.pc.toNat % 65536 ≤ 65524 →
          decodeBytes (s.mem.bytes pa 12) = .ok i → warpCtl i = none → (g.drv.priv = true ∨ sysOf i = none) → last i →
          step s = exec i (t.tlbFill c g.vf g.drv.pc.toNat)) ∧
        (∀ i, s.ostlerReady c = true → (s.core c).feOstler = false →
          let pc := (s.core c).ostler.pc.toNat
          populated pc = true → populated (pc + 11) = true → decodeBytes (s.mem.bytes pc 12) = .ok i → warpCtl i = none → last i →
          step s = exec i { (s.modCore c fun co => { co with feAt := s.clock + 1, feOstler := true }) with
            cur := { core := c, slot := 8, agent := .ostler } }))))

/-- Every step keeps memory and every scratchpad in canonical form, and every L1 with at most one copy of a line, of 64 bytes. -/
def Obligations.StepKeepsMemory : Prop := ∀ s t : State, s.Mem → step s = .next t → t.Mem

/-- R1, R12, R22 to R25: every step keeps the parts of the module and their registers: 256 cores of 8 slots, every warp with its
declared registers, tiles of 32 rows and 96 columns, drivers with 32 registers. -/
def Obligations.StepKeepsRegisters : Prop := ∀ s t : State, s.Regs → step s = .next t → t.Regs

/-- R201, R347, R369: the reset values that the rules give; and the invariants hold at reset. That every slot is empty, that no
word of memory is bad and that no store to a register waits is log 1's: the model's choice. -/
def Obligations.ResetState : Prop :=
  State.reset.Mem ∧ State.reset.Regs ∧ State.reset.atRest ∧ State.reset.pinwait = 1000 ∧ State.reset.stealb = 20000 ∧ State.reset.parkth = 8 ∧
  State.reset.dispstop = 0 ∧ (∀ co ∈ State.reset.cores, co.ostler.ctx = 0x80 ∧ ∀ k, co.slots.getD k none = none) ∧
  (∀ x ∈ State.reset.strings, x.refill = 16 ∧ x.bcap = 64 ∧ x.imbth = 12 ∧ x.credit = 64 ∧ x.node0 = 0 ∧ x.node1 = 0 ∧ x.node2 = 0) ∧
  (∀ r ∈ State.reset.mr, r = List.replicate 32 0)
end

