-- ==== Sys2Proof/Laws/State.lean ====
section
/-!
SUPPORT. What each plain update of the state changes and what it leaves: one lemma for each field, and reads after writes.
-/
namespace Sys2Proof.Machine

/-! Fields that an update of a core, a function or a string leaves -/

@[simp] theorem modCore_mem (s : State) (c f) : (s.modCore c f).mem = s.mem := rfl
@[simp] theorem modCore_poison (s : State) (c f) : (s.modCore c f).poison = s.poison := rfl
@[simp] theorem modCore_memBad (s : State) (c f) : (s.modCore c f).memBad = s.memBad := rfl
@[simp] theorem modCore_l2 (s : State) (c f) : (s.modCore c f).l2 = s.l2 := rfl
@[simp] theorem modCore_walks (s : State) (c f) : (s.modCore c f).walks = s.walks := rfl
@[simp] theorem modCore_cores (s : State) (c f) : (s.modCore c f).cores = s.cores.modify c f := rfl
@[simp] theorem modCore_strings (s : State) (c f) : (s.modCore c f).strings = s.strings := rfl
@[simp] theorem modCore_vfs (s : State) (c f) : (s.modCore c f).vfs = s.vfs := rfl
@[simp] theorem modCore_launches (s : State) (c f) : (s.modCore c f).launches = s.launches := rfl
@[simp] theorem modCore_awaited (s : State) (c f) : (s.modCore c f).awaited = s.awaited := rfl
@[simp] theorem modCore_admits (s : State) (c f) : (s.modCore c f).admits = s.admits := rfl
@[simp] theorem modCore_rails (s : State) (c f) : (s.modCore c f).rails = s.rails := rfl
@[simp] theorem modCore_ports (s : State) (c f) : (s.modCore c f).ports = s.ports := rfl
@[simp] theorem modCore_pinwait (s : State) (c f) : (s.modCore c f).pinwait = s.pinwait := rfl
@[simp] theorem modCore_stealb (s : State) (c f) : (s.modCore c f).stealb = s.stealb := rfl
@[simp] theorem modCore_parkth (s : State) (c f) : (s.modCore c f).parkth = s.parkth := rfl
@[simp] theorem modCore_dispstop (s : State) (c f) : (s.modCore c f).dispstop = s.dispstop := rfl
@[simp] theorem modCore_clock (s : State) (c f) : (s.modCore c f).clock = s.clock := rfl
@[simp] theorem modCore_img (s : State) (c f) : (s.modCore c f).img = s.img := rfl
@[simp] theorem modCore_flash (s : State) (c f) : (s.modCore c f).flash = s.flash := rfl
@[simp] theorem modCore_mr (s : State) (c f) : (s.modCore c f).mr = s.mr := rfl
@[simp] theorem modCore_up (s : State) (c f) : (s.modCore c f).up = s.up := rfl
@[simp] theorem modCore_brickd (s : State) (c f) : (s.modCore c f).brickd = s.brickd := rfl
@[simp] theorem modCore_pfMsix (s : State) (c f) : (s.modCore c f).pfMsix = s.pfMsix := rfl
@[simp] theorem modCore_hostData (s : State) (c f) : (s.modCore c f).hostData = s.hostData := rfl
@[simp] theorem modCore_hostPoison (s : State) (c f) : (s.modCore c f).hostPoison = s.hostPoison := rfl
@[simp] theorem modCore_frameDims (s : State) (c f) : (s.modCore c f).frameDims = s.frameDims := rfl
@[simp] theorem modCore_trims (s : State) (c f) : (s.modCore c f).trims = s.trims := rfl
@[simp] theorem modCore_ruined (s : State) (c f) : (s.modCore c f).ruined = s.ruined := rfl
@[simp] theorem modCore_sramCe (s : State) (c f) : (s.modCore c f).sramCe = s.sramCe := rfl
@[simp] theorem modCore_windowAt (s : State) (c f) : (s.modCore c f).windowAt = s.windowAt := rfl
@[simp] theorem modCore_peers (s : State) (c f) : (s.modCore c f).peers = s.peers := rfl
@[simp] theorem modCore_inputs (s : State) (c f) : (s.modCore c f).inputs = s.inputs := rfl
@[simp] theorem modCore_upsets (s : State) (c f) : (s.modCore c f).upsets = s.upsets := rfl
@[simp] theorem modCore_cur (s : State) (c f) : (s.modCore c f).cur = s.cur := rfl
@[simp] theorem modCore_replay (s : State) (c f) : (s.modCore c f).replay = s.replay := rfl
@[simp] theorem modCore_regQueue (s : State) (c f) : (s.modCore c f).regQueue = s.regQueue := rfl
@[simp] theorem modCore_free (s : State) (c f) : (s.modCore c f).free = s.free := rfl

@[simp] theorem modString_mem (s : State) (n f) : (s.modString n f).mem = s.mem := rfl
@[simp] theorem modString_poison (s : State) (n f) : (s.modString n f).poison = s.poison := rfl
@[simp] theorem modString_memBad (s : State) (n f) : (s.modString n f).memBad = s.memBad := rfl
@[simp] theorem modString_l2 (s : State) (n f) : (s.modString n f).l2 = s.l2 := rfl
@[simp] theorem modString_walks (s : State) (n f) : (s.modString n f).walks = s.walks := rfl
@[simp] theorem modString_cores (s : State) (n f) : (s.modString n f).cores = s.cores := rfl
@[simp] theorem modString_strings (s : State) (n f) : (s.modString n f).strings = s.strings.modify n f := rfl
@[simp] theorem modString_vfs (s : State) (n f) : (s.modString n f).vfs = s.vfs := rfl
@[simp] theorem modString_launches (s : State) (n f) : (s.modString n f).launches = s.launches := rfl
@[simp] theorem modString_awaited (s : State) (n f) : (s.modString n f).awaited = s.awaited := rfl
@[simp] theorem modString_admits (s : State) (n f) : (s.modString n f).admits = s.admits := rfl
@[simp] theorem modString_rails (s : State) (n f) : (s.modString n f).rails = s.rails := rfl
@[simp] theorem modString_ports (s : State) (n f) : (s.modString n f).ports = s.ports := rfl
@[simp] theorem modString_pinwait (s : State) (n f) : (s.modString n f).pinwait = s.pinwait := rfl
@[simp] theorem modString_stealb (s : State) (n f) : (s.modString n f).stealb = s.stealb := rfl
@[simp] theorem modString_parkth (s : State) (n f) : (s.modString n f).parkth = s.parkth := rfl
@[simp] theorem modString_dispstop (s : State) (n f) : (s.modString n f).dispstop = s.dispstop := rfl
@[simp] theorem modString_clock (s : State) (n f) : (s.modString n f).clock = s.clock := rfl
@[simp] theorem modString_img (s : State) (n f) : (s.modString n f).img = s.img := rfl
@[simp] theorem modString_flash (s : State) (n f) : (s.modString n f).flash = s.flash := rfl
@[simp] theorem modString_mr (s : State) (n f) : (s.modString n f).mr = s.mr := rfl
@[simp] theorem modString_up (s : State) (n f) : (s.modString n f).up = s.up := rfl
@[simp] theorem modString_brickd (s : State) (n f) : (s.modString n f).brickd = s.brickd := rfl
@[simp] theorem modString_pfMsix (s : State) (n f) : (s.modString n f).pfMsix = s.pfMsix := rfl
@[simp] theorem modString_hostData (s : State) (n f) : (s.modString n f).hostData = s.hostData := rfl
@[simp] theorem modString_hostPoison (s : State) (n f) : (s.modString n f).hostPoison = s.hostPoison := rfl
@[simp] theorem modString_frameDims (s : State) (n f) : (s.modString n f).frameDims = s.frameDims := rfl
@[simp] theorem modString_trims (s : State) (n f) : (s.modString n f).trims = s.trims := rfl
@[simp] theorem modString_ruined (s : State) (n f) : (s.modString n f).ruined = s.ruined := rfl
@[simp] theorem modString_sramCe (s : State) (n f) : (s.modString n f).sramCe = s.sramCe := rfl
@[simp] theorem modString_windowAt (s : State) (n f) : (s.modString n f).windowAt = s.windowAt := rfl
@[simp] theorem modString_peers (s : State) (n f) : (s.modString n f).peers = s.peers := rfl
@[simp] theorem modString_inputs (s : State) (n f) : (s.modString n f).inputs = s.inputs := rfl
@[simp] theorem modString_upsets (s : State) (n f) : (s.modString n f).upsets = s.upsets := rfl
@[simp] theorem modString_cur (s : State) (n f) : (s.modString n f).cur = s.cur := rfl
@[simp] theorem modString_replay (s : State) (n f) : (s.modString n f).replay = s.replay := rfl
@[simp] theorem modString_regQueue (s : State) (n f) : (s.modString n f).regQueue = s.regQueue := rfl
@[simp] theorem modString_free (s : State) (n f) : (s.modString n f).free = s.free := rfl

@[simp] theorem modVf_mem (s : State) (n f) : (s.modVf n f).mem = s.mem := rfl
@[simp] theorem modVf_poison (s : State) (n f) : (s.modVf n f).poison = s.poison := rfl
@[simp] theorem modVf_memBad (s : State) (n f) : (s.modVf n f).memBad = s.memBad := rfl
@[simp] theorem modVf_l2 (s : State) (n f) : (s.modVf n f).l2 = s.l2 := rfl
@[simp] theorem modVf_walks (s : State) (n f) : (s.modVf n f).walks = s.walks := rfl
@[simp] theorem modVf_cores (s : State) (n f) : (s.modVf n f).cores = s.cores := rfl
@[simp] theorem modVf_strings (s : State) (n f) : (s.modVf n f).strings = s.strings := rfl
@[simp] theorem modVf_vfs (s : State) (n f) : (s.modVf n f).vfs = s.vfs.modify n f := rfl
@[simp] theorem modVf_launches (s : State) (n f) : (s.modVf n f).launches = s.launches := rfl
@[simp] theorem modVf_awaited (s : State) (n f) : (s.modVf n f).awaited = s.awaited := rfl
@[simp] theorem modVf_admits (s : State) (n f) : (s.modVf n f).admits = s.admits := rfl
@[simp] theorem modVf_rails (s : State) (n f) : (s.modVf n f).rails = s.rails := rfl
@[simp] theorem modVf_ports (s : State) (n f) : (s.modVf n f).ports = s.ports := rfl
@[simp] theorem modVf_pinwait (s : State) (n f) : (s.modVf n f).pinwait = s.pinwait := rfl
@[simp] theorem modVf_stealb (s : State) (n f) : (s.modVf n f).stealb = s.stealb := rfl
@[simp] theorem modVf_parkth (s : State) (n f) : (s.modVf n f).parkth = s.parkth := rfl
@[simp] theorem modVf_dispstop (s : State) (n f) : (s.modVf n f).dispstop = s.dispstop := rfl
@[simp] theorem modVf_clock (s : State) (n f) : (s.modVf n f).clock = s.clock := rfl
@[simp] theorem modVf_img (s : State) (n f) : (s.modVf n f).img = s.img := rfl
@[simp] theorem modVf_flash (s : State) (n f) : (s.modVf n f).flash = s.flash := rfl
@[simp] theorem modVf_mr (s : State) (n f) : (s.modVf n f).mr = s.mr := rfl
@[simp] theorem modVf_up (s : State) (n f) : (s.modVf n f).up = s.up := rfl
@[simp] theorem modVf_brickd (s : State) (n f) : (s.modVf n f).brickd = s.brickd := rfl
@[simp] theorem modVf_pfMsix (s : State) (n f) : (s.modVf n f).pfMsix = s.pfMsix := rfl
@[simp] theorem modVf_hostData (s : State) (n f) : (s.modVf n f).hostData = s.hostData := rfl
@[simp] theorem modVf_hostPoison (s : State) (n f) : (s.modVf n f).hostPoison = s.hostPoison := rfl
@[simp] theorem modVf_frameDims (s : State) (n f) : (s.modVf n f).frameDims = s.frameDims := rfl
@[simp] theorem modVf_trims (s : State) (n f) : (s.modVf n f).trims = s.trims := rfl
@[simp] theorem modVf_ruined (s : State) (n f) : (s.modVf n f).ruined = s.ruined := rfl
@[simp] theorem modVf_sramCe (s : State) (n f) : (s.modVf n f).sramCe = s.sramCe := rfl
@[simp] theorem modVf_windowAt (s : State) (n f) : (s.modVf n f).windowAt = s.windowAt := rfl
@[simp] theorem modVf_peers (s : State) (n f) : (s.modVf n f).peers = s.peers := rfl
@[simp] theorem modVf_inputs (s : State) (n f) : (s.modVf n f).inputs = s.inputs := rfl
@[simp] theorem modVf_upsets (s : State) (n f) : (s.modVf n f).upsets = s.upsets := rfl
@[simp] theorem modVf_cur (s : State) (n f) : (s.modVf n f).cur = s.cur := rfl
@[simp] theorem modVf_replay (s : State) (n f) : (s.modVf n f).replay = s.replay := rfl
@[simp] theorem modVf_regQueue (s : State) (n f) : (s.modVf n f).regQueue = s.regQueue := rfl
@[simp] theorem modVf_free (s : State) (n f) : (s.modVf n f).free = s.free := rfl

@[simp] theorem bump_mem (s : State) : s.bump.mem = s.mem := rfl
@[simp] theorem bump_poison (s : State) : s.bump.poison = s.poison := rfl
@[simp] theorem bump_memBad (s : State) : s.bump.memBad = s.memBad := rfl
@[simp] theorem bump_l2 (s : State) : s.bump.l2 = s.l2 := rfl
@[simp] theorem bump_walks (s : State) : s.bump.walks = s.walks := rfl
@[simp] theorem bump_cores (s : State) : s.bump.cores = s.cores := rfl
@[simp] theorem bump_strings (s : State) : s.bump.strings = s.strings := rfl
@[simp] theorem bump_vfs (s : State) : s.bump.vfs = s.vfs := rfl
@[simp] theorem bump_launches (s : State) : s.bump.launches = s.launches := rfl
@[simp] theorem bump_awaited (s : State) : s.bump.awaited = s.awaited := rfl
@[simp] theorem bump_admits (s : State) : s.bump.admits = s.admits := rfl
@[simp] theorem bump_rails (s : State) : s.bump.rails = s.rails := rfl
@[simp] theorem bump_ports (s : State) : s.bump.ports = s.ports := rfl
@[simp] theorem bump_pinwait (s : State) : s.bump.pinwait = s.pinwait := rfl
@[simp] theorem bump_stealb (s : State) : s.bump.stealb = s.stealb := rfl
@[simp] theorem bump_parkth (s : State) : s.bump.parkth = s.parkth := rfl
@[simp] theorem bump_dispstop (s : State) : s.bump.dispstop = s.dispstop := rfl
@[simp] theorem bump_clock (s : State) : s.bump.clock = s.clock := rfl
@[simp] theorem bump_img (s : State) : s.bump.img = s.img := rfl
@[simp] theorem bump_flash (s : State) : s.bump.flash = s.flash := rfl
@[simp] theorem bump_mr (s : State) : s.bump.mr = s.mr := rfl
@[simp] theorem bump_up (s : State) : s.bump.up = s.up := rfl
@[simp] theorem bump_brickd (s : State) : s.bump.brickd = s.brickd := rfl
@[simp] theorem bump_pfMsix (s : State) : s.bump.pfMsix = s.pfMsix := rfl
@[simp] theorem bump_hostData (s : State) : s.bump.hostData = s.hostData := rfl
@[simp] theorem bump_hostPoison (s : State) : s.bump.hostPoison = s.hostPoison := rfl
@[simp] theorem bump_frameDims (s : State) : s.bump.frameDims = s.frameDims := rfl
@[simp] theorem bump_trims (s : State) : s.bump.trims = s.trims := rfl
@[simp] theorem bump_ruined (s : State) : s.bump.ruined = s.ruined := rfl
@[simp] theorem bump_sramCe (s : State) : s.bump.sramCe = s.sramCe := rfl
@[simp] theorem bump_windowAt (s : State) : s.bump.windowAt = s.windowAt := rfl
@[simp] theorem bump_peers (s : State) : s.bump.peers = s.peers := rfl
@[simp] theorem bump_inputs (s : State) : s.bump.inputs = s.inputs := rfl
@[simp] theorem bump_upsets (s : State) : s.bump.upsets = s.upsets := rfl
@[simp] theorem bump_cur (s : State) : s.bump.cur = s.cur := rfl
@[simp] theorem bump_replay (s : State) : s.bump.replay = s.replay := rfl
@[simp] theorem bump_regQueue (s : State) : s.bump.regQueue = s.regQueue := rfl
@[simp] theorem bump_free (s : State) : s.bump.free = s.free + 1 := rfl
@[simp] theorem bump_wg? (s : State) (c k : Nat) : s.bump.wg? c k = s.wg? c k := rfl
@[simp] theorem bump_core (s : State) (c : Nat) : s.bump.core c = s.core c := rfl
@[simp] theorem bump_vf (s : State) (f : Nat) : s.bump.vf f = s.vf f := rfl
@[simp] theorem bump_string (s : State) (n : Nat) : s.bump.string n = s.string n := rfl

/-! Reads after writes -/

theorem core_modCore (s : State) (c d : Nat) (f : Core → Core) :
    (s.modCore c f).core d = if c = d ∧ d < s.cores.length then f (s.core d) else s.core d := by
  simp only [State.core, State.modCore, List.getD_eq_getElem?_getD, List.getElem?_modify]
  by_cases h : c = d
  · subst h
    by_cases hc : c < s.cores.length
    · simp [hc]
    · simp [hc]
  · simp [h]

theorem core_modCore_self (s : State) (c : Nat) (f : Core → Core) (h : c < s.cores.length) :
    (s.modCore c f).core c = f (s.core c) := by simp [core_modCore, h]

theorem core_modCore_ne (s : State) (c d : Nat) (f : Core → Core) (h : c ≠ d) : (s.modCore c f).core d = s.core d := by
  simp [core_modCore, h]

/-- A slot that holds a workgroup belongs to a core of the module. -/
theorem wg?_core (s : State) (c k : Nat) (g : Workgroup) (h : s.wg? c k = some g) : c < s.cores.length := by
  refine Nat.lt_of_not_le fun hc => ?_
  have : s.core c = Core.reset := by simp [State.core, List.getD_eq_getElem?_getD, List.getElem?_eq_none hc]
  rw [State.wg?, this] at h
  simp only [Core.reset, List.getD_eq_getElem?_getD, List.getElem?_replicate] at h
  split at h <;> simp at h

theorem wg?_modWg_self (s : State) (c k : Nat) (f : Workgroup → Workgroup) :
    (s.modWg c k f).wg? c k = (s.wg? c k).map f := by
  by_cases hc : c < s.cores.length
  · simp only [State.wg?, State.modWg, core_modCore_self _ _ _ hc, List.getD_eq_getElem?_getD, List.getElem?_modify]
    cases h : (s.core c).slots[k]? <;> simp
  · have h1 : s.core c = Core.reset := by
      simp [State.core, List.getD_eq_getElem?_getD, List.getElem?_eq_none (Nat.le_of_not_lt hc)]
    have h2 : s.wg? c k = none := by
      cases h : s.wg? c k with
      | none => rfl
      | some g => exact absurd (wg?_core s c k g h) hc
    rw [h2]
    simp only [State.wg?, State.modWg, core_modCore, hc, and_false, if_false]
    exact h2

theorem wg?_modWg_ne (s : State) (c k d j : Nat) (f : Workgroup → Workgroup) (h : ¬(c = d ∧ k = j)) :
    (s.modWg c k f).wg? d j = s.wg? d j := by
  by_cases hd : c = d
  · subst hd
    have hk : k ≠ j := fun e => h ⟨rfl, e⟩
    by_cases hc : c < s.cores.length
    · simp only [State.wg?, State.modWg, core_modCore_self _ _ _ hc, List.getD_eq_getElem?_getD, List.getElem?_modify, hk,
        if_false]
      cases (s.core c).slots[j]? <;> rfl
    · simp only [State.wg?, State.modWg, core_modCore, hc, and_false, if_false]
  · simp only [State.wg?, State.modWg, core_modCore_ne _ _ _ _ hd]

/-- An update that a workgroup does not change is none, for the slot it is made in. -/
theorem wg?_modCore_slots (s : State) (c k d : Nat) (f : Core → Core) (h : ∀ co : Core, (f co).slots = co.slots) :
    (s.modCore c f).wg? d k = s.wg? d k := by
  simp only [State.wg?, core_modCore]
  split <;> simp [h]

@[simp] theorem wg?_modString (s : State) (n c k : Nat) (f : StringSt → StringSt) : (s.modString n f).wg? c k = s.wg? c k := rfl
@[simp] theorem wg?_modVf (s : State) (n c k : Nat) (f : Vf → Vf) : (s.modVf n f).wg? c k = s.wg? c k := rfl

/-! Lines of L2 and their write-back (R241, R251) -/

/-- Without a bad memory word a change of L2's lines changes nothing else. -/
theorem setL2_quiet (s : State) (new : List L2Line) (h : s.memBad = []) : s.setL2 new = { s with l2 := new } := by
  simp [State.setL2, h]

@[simp] theorem setL2_l2 (s : State) (new : List L2Line) : (s.setL2 new).l2 = new := by unfold State.setL2; split <;> rfl
@[simp] theorem setL2_mem (s : State) (new : List L2Line) : (s.setL2 new).mem = s.mem := by unfold State.setL2; split <;> rfl
@[simp] theorem setL2_cores (s : State) (new : List L2Line) : (s.setL2 new).cores = s.cores := by unfold State.setL2; split <;> rfl
@[simp] theorem setL2_regQueue (s : State) (new : List L2Line) : (s.setL2 new).regQueue = s.regQueue := by
  unfold State.setL2; split <;> rfl
@[simp] theorem l2Touch_mem (s : State) (ln vf : Nat) (d k : Bool) : (s.l2Touch ln vf d k).mem = s.mem := setL2_mem _ _
@[simp] theorem l2Touch_cores (s : State) (ln vf : Nat) (d k : Bool) : (s.l2Touch ln vf d k).cores = s.cores := setL2_cores _ _

/-- A register line that is written back changes no memory: its bytes wait for their registers. -/
theorem writeBack_regLine (s : State) (l : L1Line) (h : s.regLine l = true) :
    s.writeBack l = { s with regQueue := s.regQueue ++ l.dirtyRuns } := by
  simp [State.writeBack, h]

end Sys2Proof.Machine
end

