-- ==== Sys2Proof/Laws/DriverWord.lean ====
section
/-!
SUPPORT. Words of drivers and ostlers: what issues, and what the end of a word and the join of a command do.
-/
namespace Sys2Proof.Machine

/-- A word issues for a driver or an ostler that the state holds. -/
theorem drvIssue_parts {s : State} {it : DIssue} (h : s.drvIssue = some it) (hr : s.replay = none) :
    it.s = s.bump ∧ it.core = s.cur.core ∧ it.slot = s.cur.slot ∧
      ((s.cur.agent = .driver ∧ ∃ g, s.wg? it.core it.slot = some g ∧ it.wg = some g ∧ it.pc = g.drv.pc ∧ it.d = g.drv.d) ∨
       (s.cur.agent = .ostler ∧ it.wg = none ∧ it.pc = (s.core it.core).ostler.pc ∧ it.d = (s.core it.core).ostler.d)) := by
  unfold State.drvIssue at h
  cases ha : s.cur.agent with
  | warp w => rw [ha] at h; simp at h
  | ostler =>
    rw [ha] at h
    injection h with h
    subst h
    exact ⟨rfl, rfl, rfl, .inr ⟨rfl, rfl, rfl, rfl⟩⟩
  | driver =>
    rw [ha] at h
    dsimp only at h
    cases hg : s.wg? s.cur.core s.cur.slot with
    | none => rw [hg] at h; simp at h
    | some g =>
      have hp : s.replayed g = none := by rw [State.replayed, hr]; rfl
      rw [hg] at h
      dsimp only at h
      rw [hp] at h
      injection h with h
      subst h
      exact ⟨rfl, rfl, rfl, .inl ⟨rfl, g, hg, rfl, rfl, rfl⟩⟩

/-- A stream that issues driver words is no warp. -/
theorem drvIssue_not_warp {s : State} {it : DIssue} (h : s.drvIssue = some it) : s.warpTurn = false := by
  unfold State.warpTurn
  unfold State.drvIssue at h
  cases ha : s.cur.agent with
  | warp w => rw [ha] at h; simp at h
  | _ => rfl

/-- A driver word that runs is its body (R147). -/
theorem drvWord_runs {s : State} {c : Ctl} {it : DIssue} (h : s.drvRuns c it) (body : DIssue → Out) : drvWord c body s = body it := by
  unfold drvWord
  rw [drvIssue_not_warp h.1, if_neg (by simp), h.1]
  exact if_neg (by simpa using h.2.1)

/-- A word of a workgroup's driver that runs is its body. -/
theorem wgWord_runs {s : State} {c : Ctl} {it : DIssue} {g : Workgroup} (h : s.wgRuns c it g) (body : DIssue → Workgroup → Out) :
    wgWord c body s = body it g := by
  unfold wgWord
  rw [drvWord_runs h.1, h.2]

/-- A system word of a privileged stream that runs is its body (R79). -/
theorem sysWord_runs {s : State} {c : Ctl} {it : DIssue} (h : s.sysRuns c it) (body : DIssue → Out) : sysWord c body s = body it := by
  unfold sysWord
  rw [drvIssue_not_warp h.1.1, if_neg (by simp), h.2, if_neg (by simp)]
  exact drvWord_runs h.1 body

/-- A timed no-op of a driver or an ostler executes nothing (R64). -/
theorem drvWord_timed {s : State} {c : Ctl} {it : DIssue} (h : s.drvIssue = some it) (hc : c.grd = 0xF) (body : DIssue → Out) :
    drvWord c body s = it.done it.s c := by
  unfold drvWord
  rw [drvIssue_not_warp h, if_neg (by simp), h]
  exact if_pos (by simpa using hc)

/-- Operands (R22, R147). -/
theorem DIssue.val_src (it : DIssue) (o : Opnd) : it.val o = it.src o := by
  cases o <;> simp only [DIssue.val, DIssue.src, DIssue.dreg]
  rename_i n
  by_cases hn : n = 0
  · subst hn; rfl
  · rw [if_neg hn, if_neg]
    intro h
    exact hn (BitVec.eq_of_toNat_eq (by simpa using h))

theorem dNo_dOf (o : Opnd) : dNo o = dOf o := by cases o <;> rfl

/-- The end of a word leaves the stream past it, with its register set (R147). -/
theorem DIssue.goto_leaves (it : DIssue) (m : State) (c : Ctl) (dst : Nat) (v pc : W64) : it.leaves m c dst v pc (it.goto m c dst v pc) := by
  unfold DIssue.leaves DIssue.goto Ctl.gap
  cases it.wg with
  | none =>
    simp only [setD, beq_iff_eq]
  | some g =>
    simp only [setD, beq_iff_eq]

theorem DIssue.put_leaves (it : DIssue) (m : State) (c : Ctl) (o : Opnd) (v : W64) :
    ∃ t, it.put m c o v = .next t ∧ it.leaves m c (dOf o) v (it.pc + 12) t :=
  ⟨_, rfl, dNo_dOf o ▸ it.goto_leaves m c (dNo o) v (it.pc + 12)⟩

theorem DIssue.done_leaves (it : DIssue) (m : State) (c : Ctl) : ∃ t, it.done m c = .next t ∧ it.leaves m c 0 0 (it.pc + 12) t :=
  ⟨_, rfl, it.goto_leaves m c 0 0 (it.pc + 12)⟩

/-- With no bad scratchpad word, no operand holds an error (R252). -/
theorem badOperand_none {s : State} {c : Nat} (h : (s.core c).badWords = []) (rs : List (Nat × Nat × Nat)) : s.badOperand c rs = none := by
  unfold State.badOperand
  rw [h]
  rfl

/-- With no bad scratchpad word, no part of one is written (R251). -/
theorem badPart_none {s : State} {c : Nat} (h : (s.core c).badWords = []) (rs : List (Nat × Nat)) : s.badPart c rs = none := by
  unfold State.badPart
  rw [h]
  rfl

/-- With nothing in flight, no tile is busy (R33). -/
theorem busyTiles_nil {g : Workgroup} (h : g.hazards = []) (b : Nat) (ts : List Nat) : g.busyTiles b ts = [] := by
  unfold Workgroup.busyTiles
  rw [h]
  simp

/-- With nothing in flight, no command names a tile (R33). -/
theorem onTiles_nil {g : Workgroup} (h : g.hazards = []) (b : Nat) (ts : List Nat) : g.onTiles b ts = [] := by
  unfold Workgroup.onTiles
  rw [h]
  rfl

/-- A command of no passes leaves the array's count as it is (R256). -/
theorem State.modCore_passes (s : State) (c : Nat) : (s.modCore c fun co => { co with passes := co.passes + 0 }) = s := by
  have h : (fun co : Core => { co with passes := co.passes + 0 }) = id := rfl
  rw [h]
  simp [State.modCore]

/-- With nothing in flight, no command waits for another (R161, R182). -/
theorem orderWaits_nil {g : Workgroup} (h : g.hazards = []) (b i cls : Nat) (ts : List Nat) : g.orderWaits b i cls ts = false := by
  have ha : ∀ b i, g.hazAt b i = none := by
    intro b i
    unfold Workgroup.hazAt
    rw [h]
    simp
  have hw : ∀ b, g.waiting b = [] := by
    intro b
    unfold Workgroup.waiting
    simp only [ha]
    rw [List.filterMap_eq_nil_iff]
    intro j _
    split <;> simp_all
  unfold Workgroup.orderWaits
  simp [hw]

/-- A command that names no tile, with no error in the scratchpad and nothing in flight, takes its effect and joins the open batch
(R158). -/
theorem DIssue.run_performs (it : DIssue) (g : Workgroup) (c : Ctl) (w : Work) (hr : it.s.replay = none)
    (hb : (it.s.core it.core).badWords = []) (hg : g.hazards = []) (hp0 : w.passes = 0) :
    ∃ t, it.run g c w = .next t ∧ it.performs c w.cls w.pend w.run t := by
  let q : Cmd := { engine := w.cls, status := (w.run it.s.bump).2.1, data := (w.run it.s.bump).2.2, pend := w.pend }
  let h : Haz := { w.haz 16 with move := if (w.run it.s.bump).2.1 == 8 then w.move else none }
  refine ⟨it.goto ((w.run it.s.bump).1.bump.modWg it.core it.slot fun g => g.joinBatch q h) c 0 0 (it.pc + 12), ?_,
    h, rfl, it.goto_leaves _ c 0 0 (it.pc + 12)⟩
  have hp : it.place g = (16, g.open_.length) := by rw [DIssue.place, hr]; rfl
  unfold DIssue.run
  dsimp only
  rw [orderWaits_nil hg, if_neg (by simp)]
  unfold DIssue.runNow
  rw [hp]
  simp only [badOperand_none hb, badPart_none hb, busyTiles_nil hg, onTiles_nil hg, hr, hp0, State.freeTiles, List.foldl_nil,
    Option.isNone_none, if_true, ite_self, State.modCore_passes, beq_self_eq_true]
  rfl

end Sys2Proof.Machine
end

