-- ==== Sys2Proof/Laws/Memory.lean ====
section
/-!
SUPPORT. Memory: every operation keeps the canonical form, and what a read after it gives.
-/
namespace Sys2Proof.Machine

/-! The canonical form -/

theorem Memory.wf_cons {c : Host.Cell} {r : Memory} :
    Memory.wf (c :: r) = true ↔ c.2 ≠ Memory.absent ∧ (∀ d ∈ r, c.1 < d.1) ∧ Memory.wf r = true := by
  induction r generalizing c with
  | nil => simp [Memory.wf]
  | cons d r ih =>
    simp only [Memory.wf, Bool.and_eq_true, bne_iff_ne, decide_eq_true_eq]
    constructor
    · rintro ⟨⟨h1, h2⟩, h3⟩
      refine ⟨h1, fun e he => ?_, h3⟩
      rcases List.mem_cons.1 he with rfl | he
      · exact h2
      · exact Nat.lt_trans h2 ((ih.1 h3).2.1 e he)
    · rintro ⟨h1, h2, h3⟩
      exact ⟨⟨h1, h2 d List.mem_cons_self⟩, h3⟩

/-- Below every listed address, memory reads as absent. -/
theorem Memory.read_below {m : Memory} {a : Nat} (h : ∀ d ∈ m, a < d.1) : m.read a = Memory.absent := by
  induction m with
  | nil => rfl
  | cons c r ih =>
    have hc := h c List.mem_cons_self
    simp only [Memory.read]
    rw [if_neg (by simp; omega)]
    exact ih fun d hd => h d (List.mem_cons_of_mem _ hd)

/-- A write lists nothing but its own address and what was listed. -/
theorem Memory.mem_write {m : Memory} {a : Nat} {b : Byte} {d : Host.Cell} (h : d ∈ m.write a b) : d.1 = a ∨ d ∈ m := by
  induction m with
  | nil =>
    simp only [Memory.write] at h
    split at h
    · simp at h
    · simp at h; simp [h]
  | cons c r ih =>
    simp only [Memory.write] at h
    split at h
    · rcases List.mem_cons.1 h with rfl | h
      · simp
      · rcases ih h with h | h
        · exact .inl h
        · exact .inr (List.mem_cons_of_mem _ h)
    · split at h
      · split at h
        · exact .inr (List.mem_cons_of_mem _ h)
        · rcases List.mem_cons.1 h with rfl | h
          · exact .inl rfl
          · exact .inr (List.mem_cons_of_mem _ h)
      · split at h
        · exact .inr h
        · rcases List.mem_cons.1 h with rfl | h
          · exact .inl rfl
          · exact .inr h

/-- A write of one byte keeps the canonical form. -/
theorem Memory.wf_write {m : Memory} {a : Nat} {b : Byte} (h : m.wf = true) : (m.write a b).wf = true := by
  induction m with
  | nil =>
    simp only [Memory.write]
    split
    · rfl
    · rename_i hb; simpa [Memory.wf] using hb
  | cons c r ih =>
    have ⟨h1, h2, h3⟩ := Memory.wf_cons.1 h
    simp only [Memory.write]
    split
    · rename_i hlt
      refine Memory.wf_cons.2 ⟨h1, fun d hd => ?_, ih h3⟩
      rcases Memory.mem_write hd with hd | hd
      · omega
      · exact h2 d hd
    · split
      · rename_i heq
        have heq : c.1 = a := by simpa using heq
        split
        · exact h3
        · rename_i hb
          exact Memory.wf_cons.2 ⟨by simpa using hb, fun d hd => by have := h2 d hd; simp only; omega, h3⟩
      · rename_i hlt hne
        split
        · exact h
        · rename_i hb
          refine Memory.wf_cons.2 ⟨by simpa using hb, fun d hd => ?_, h⟩
          have hne : c.1 ≠ a := by simpa using hne
          rcases List.mem_cons.1 hd with rfl | hd
          · simp only; omega
          · have := h2 d hd; simp only; omega

/-- Read after write. -/
theorem Memory.read_write {m : Memory} (h : m.wf = true) (a x : Nat) (b : Byte) :
    (m.write a b).read x = if x = a then b else m.read x := by
  induction m with
  | nil =>
    simp only [Memory.write]
    by_cases hb : b == Memory.absent
    · rw [if_pos hb]
      have hb : b = Memory.absent := by simpa using hb
      simp only [Memory.read, hb]
      split <;> rfl
    · rw [if_neg hb]
      simp only [Memory.read]
      by_cases hx : x = a
      · simp [hx]
      · rw [if_neg (by simp; omega), if_neg hx]
  | cons c r ih =>
    have ⟨h1, h2, h3⟩ := Memory.wf_cons.1 h
    simp only [Memory.write]
    by_cases hlt : c.1 < a
    · rw [if_pos hlt]
      simp only [Memory.read]
      by_cases hc : c.1 == x
      · have hc' : c.1 = x := by simpa using hc
        rw [if_pos hc, if_pos hc, if_neg (by omega)]
      · rw [if_neg hc, if_neg hc]
        exact ih h3
    · rw [if_neg hlt]
      by_cases heq : c.1 == a
      · have heq' : c.1 = a := by simpa using heq
        rw [if_pos heq]
        by_cases hb : b == Memory.absent
        · rw [if_pos hb]
          have hb' : b = Memory.absent := by simpa using hb
          by_cases hx : x = a
          · rw [if_pos hx, hx, hb']
            exact Memory.read_below fun d hd => heq' ▸ h2 d hd
          · rw [if_neg hx]
            simp only [Memory.read]
            rw [if_neg (by simp; omega)]
        · rw [if_neg hb]
          simp only [Memory.read]
          by_cases hx : x = a
          · simp [hx]
          · rw [if_neg (by simp; omega), if_neg hx, if_neg (by simp; omega)]
      · have heq' : c.1 ≠ a := by simpa using heq
        rw [if_neg heq]
        by_cases hb : b == Memory.absent
        · rw [if_pos hb]
          by_cases hx : x = a
          · have hb' : b = Memory.absent := by simpa using hb
            rw [if_pos hx, hx, hb']
            refine Memory.read_below fun d hd => ?_
            rcases List.mem_cons.1 hd with rfl | hd
            · omega
            · have := h2 d hd; omega
          · rw [if_neg hx]
        · rw [if_neg hb]
          show (if (a == x) = true then b else Memory.read (c :: r) x) = _
          by_cases hx : x = a
          · simp [hx]
          · rw [if_neg (by simp; omega), if_neg hx]

/-! Many bytes -/

theorem Memory.wf_writeList {m : Memory} (h : m.wf = true) (a : Nat) (bs : List Byte) : (m.writeList a bs).wf = true := by
  induction bs generalizing m a with
  | nil => exact h
  | cons b bs ih => exact ih (Memory.wf_write h) (a + 1)

theorem Memory.wf_writeCells {m : Memory} (h : m.wf = true) (bs : List (Nat × Byte)) : (m.writeCells bs).wf = true := by
  unfold Memory.writeCells
  induction bs generalizing m with
  | nil => exact h
  | cons b bs ih => exact ih (Memory.wf_write h)

/-- Any part of a canonical memory is canonical. -/
theorem Memory.wf_filter {m : Memory} (h : m.wf = true) (p : Host.Cell → Bool) : Memory.wf (m.filter p) = true := by
  induction m with
  | nil => rfl
  | cons c r ih =>
    have ⟨h1, h2, h3⟩ := Memory.wf_cons.1 h
    rw [List.filter_cons]
    split
    · exact Memory.wf_cons.2 ⟨h1, fun d hd => h2 d (List.mem_filter.1 hd).1, ih h3⟩
    · exact ih h3

theorem Memory.wf_clear {m : Memory} (h : m.wf = true) (a n : Nat) : (m.clear a n).wf = true := Memory.wf_filter h _

/-- A read after a write of consecutive bytes. -/
theorem Memory.read_writeList {m : Memory} (h : m.wf = true) (a x : Nat) (bs : List Byte) :
    (m.writeList a bs).read x = if a ≤ x ∧ x < a + bs.length then bs.getD (x - a) 0 else m.read x := by
  induction bs generalizing m a with
  | nil => rw [if_neg (by simp)]; rfl
  | cons b bs ih =>
    rw [Memory.writeList, ih (Memory.wf_write h) (a + 1), Memory.read_write h]
    simp only [List.length_cons]
    by_cases h1 : a + 1 ≤ x ∧ x < a + 1 + bs.length
    · rw [if_pos h1, if_pos (by omega), show x - a = (x - (a + 1)) + 1 by omega, List.getD_cons_succ]
    · rw [if_neg h1]
      by_cases hx : x = a
      · rw [if_pos hx, if_pos (by omega), hx, Nat.sub_self, List.getD_cons_zero]
      · rw [if_neg hx, if_neg (by omega)]

/-- A read after writes of single bytes is the read of the same bytes put into a function. -/
theorem Memory.read_writeCells {m : Memory} (h : m.wf = true) (x : Nat) (bs : List (Nat × Byte)) :
    (m.writeCells bs).read x = bs.foldl (fun m b => fun a => if a = b.1 then b.2 else m a) m.read x := by
  unfold Memory.writeCells
  induction bs generalizing m with
  | nil => rfl
  | cons b bs ih =>
    simp only [List.foldl_cons]
    rw [ih (Memory.wf_write h)]
    rw [show (m.write b.1 b.2).read = fun a => if a = b.1 then b.2 else m.read a from funext fun a => Memory.read_write h b.1 a b.2]

/-- A read after a clear. -/
theorem Memory.read_clear {m : Memory} (h : m.wf = true) (a n x : Nat) :
    (m.clear a n).read x = if a ≤ x ∧ x < a + n then Memory.absent else m.read x := by
  unfold Memory.clear
  induction m with
  | nil => simp only [List.filter_nil, Memory.read]; split <;> rfl
  | cons c r ih =>
    have ⟨h1, h2, h3⟩ := Memory.wf_cons.1 h
    rw [List.filter_cons]
    split
    · rename_i hc
      simp only [Bool.or_eq_true, decide_eq_true_eq] at hc
      simp only [Memory.read]
      by_cases hx : c.1 == x
      · have hx' : c.1 = x := by simpa using hx
        rw [if_pos hx, if_pos hx, if_neg (by omega)]
      · rw [if_neg hx, if_neg hx]
        exact ih h3
    · rename_i hc
      simp only [Bool.or_eq_true, decide_eq_true_eq, not_or] at hc
      rw [ih h3]
      by_cases hx : a ≤ x ∧ x < a + n
      · rw [if_pos hx, if_pos hx]
      · rw [if_neg hx, if_neg hx]
        simp only [Memory.read]
        rw [if_neg (by simp; omega)]

/-- The memory of the reset state is canonical. -/
theorem reset_mem_wf : State.reset.mem.wf = true := rfl

end Sys2Proof.Machine
end

