-- ==== Sys2Proof/Laws/WarpWord.lean ====
section
/-!
SUPPORT. Warp words: what issues, what the end of a word does, and the shape of lane arithmetic.
-/
namespace Sys2Proof.Machine

/-! What issues -/

/-- A word issues for a warp that the state holds. -/
theorem warpIssue_parts {s : State} {c : Ctl} {it : Issue} (h : s.warpIssue c = some it) :
    it.s = s.bump ∧ it.core = s.cur.core ∧ it.slot = s.cur.slot ∧ s.cur.agent = .warp it.w ∧
      s.wg? it.core it.slot = some it.wg ∧ it.wg.warps[it.w]? = some it.wp := by
  unfold State.warpIssue at h
  cases ha : s.cur.agent with
  | driver => rw [ha] at h; simp at h
  | ostler => rw [ha] at h; simp at h
  | warp w =>
    rw [ha] at h
    dsimp only at h
    cases hg : s.wg? s.cur.core s.cur.slot with
    | none => rw [hg] at h; simp at h
    | some g =>
      rw [hg] at h
      dsimp only at h
      cases hw : g.warps[w]? with
      | none => rw [hw] at h; simp at h
      | some wp =>
        rw [hw] at h
        dsimp only at h
        cases hp : wp.pick with
        | none => rw [hp] at h; simp at h
        | some gang =>
          rw [hp] at h
          injection h with h
          subst h
          exact ⟨rfl, rfl, rfl, rfl, hg, hw⟩

theorem Issue.settled_wf {it : Issue} (h : it.settled = true) : it.wp.wf = true := by
  simp only [Issue.settled, Bool.and_eq_true] at h; exact h.1.1

theorem Issue.settled_early {it : Issue} (h : it.settled = true) (k : SbKey) (L : Nat) : it.wp.early it.s.clock k L = false := by
  simp only [Issue.settled, Bool.and_eq_true, List.all_eq_true, decide_eq_true_eq] at h
  simp only [Warp.early, List.any_eq_false, Bool.and_eq_true, decide_eq_true_eq, not_and, Nat.not_lt]
  intro e he _
  exact h.1.2 e he

theorem Issue.settled_hazards {it : Issue} (h : it.settled = true) : ∀ x ∈ it.wg.hazards, x.vreg = none := by
  simp only [Issue.settled, Bool.and_eq_true, List.all_eq_true] at h
  intro x hx
  simpa using h.2 x hx

/-- A settled warp has no early read to report (R84). -/
theorem Issue.stallTrap_settled {it : Issue} (h : it.settled = true) (a b c d) : it.stallTrap a b c d = none := by
  have e := Issue.settled_early h
  have e1 (i o k) : it.earlyReg i o k = none := by
    unfold Issue.earlyReg
    rw [List.findSome?_eq_none_iff]
    intro S _
    split <;> simp [e]
  have e2 (o) : it.earlyIndex o = none := by
    unfold Issue.earlyIndex
    split <;> simp [e]
  unfold Issue.stallTrap
  split
  · rfl
  · simp [e, e1, e2]

/-! The end of a word -/

/-- A state in which the workgroup has no unwaited `mmag` loses nothing by a change of its registers. -/
theorem vregHaz_none (s : State) (c k w : Nat) (regs : List Nat)
    (h : ∀ g, s.wg? c k = some g → ∀ x ∈ g.hazards, x.vreg = none) : s.vregHaz c k w regs = s := by
  unfold State.vregHaz
  cases hg : s.wg? c k with
  | none => rfl
  | some g =>
    dsimp only
    have hz := h g hg
    revert hz
    generalize g.hazards = hs
    intro hz
    induction hs generalizing s with
    | nil => rfl
    | cons a r ih =>
      rw [List.foldl_cons]
      have ha : a.vreg = none := hz a (by simp)
      simp only [ha]
      -- the rest of the list leaves the state too
      clear ih hg h
      have hr : ∀ x ∈ r, x.vreg = none := fun x hx => hz x (by simp [hx])
      clear hz
      induction r with
      | nil => rfl
      | cons b r ih =>
        rw [List.foldl_cons]
        have hb : b.vreg = none := hr b (by simp)
        simp only [hb]
        exact ih fun x hx => hr x (by simp [hx])

/-- What `finish` makes of the warp. -/
def Issue.goes (it : Issue) (clock : Nat) (c : Ctl) (f : Fin) (w : Warp) : Warp :=
  let last := clock + it.beats f.uniform - 1
  let w := it.advance f w
  let w := f.upd w
  let w := if w.rep.active || f.stay then w else w.regroup it.gang.slices
  { w with
    fstat := w.fstat ||| f.flags
    sb := w.pending clock f.settles ++ f.keys.map (fun k => (k.1, k.2, last + 4))
    turn := (it.gang.leader + 1) % 8
    readyAt := last + c.gap, lastAt := clock, endsAt := last + 1, readySince := last + c.gap, promo := false, passed := c.yld == 1
    waits := w.waits.filter (fun q => q.leader != it.gang.leader) }

/-- The end of a word whose workgroup has no unwaited `mmag`, in a state that still holds that workgroup. -/
theorem Issue.finish_ends (it : Issue) (s : State) (c : Ctl) (f : Fin)
    (h : ∀ g, s.wg? it.core it.slot = some g → ∀ x ∈ g.hazards, x.vreg = none) :
    it.ends s (it.goes s.clock c f it.wp) (it.finish s c f) := by
  refine ⟨it.goes s.clock c f, fun co => (co.takePipe it.wp.wslot s.clock (s.clock + it.beats f.uniform - 1)).pipes,
    fun st => st.charging + s.weight f.cls * popMask it.act, rfl, ?_⟩
  have hz : ((s.modWarp it.core it.slot it.w (it.goes s.clock c f)).vregHaz it.core it.slot it.w f.regs)
      = s.modWarp it.core it.slot it.w (it.goes s.clock c f) := by
    apply vregHaz_none
    intro g hg x hx
    rw [State.modWarp, wg?_modWg_self] at hg
    cases hs : s.wg? it.core it.slot with
    | none => rw [hs] at hg; simp at hg
    | some g0 =>
      rw [hs] at hg
      simp only [Option.map_some, Option.some.injEq] at hg
      subst hg
      exact h g0 hs x hx
  have ht : ∀ co : Core, co.takePipe it.wp.wslot s.clock (s.clock + it.beats f.uniform - 1)
      = { co with pipes := (co.takePipe it.wp.wslot s.clock (s.clock + it.beats f.uniform - 1)).pipes } := by
    intro co
    unfold Core.takePipe
    split <;> rfl
  have hf : it.finish s c f = (fun s1 : State => (s1.modCore it.core fun co => co.takePipe it.wp.wslot s1.clock
      (s.clock + it.beats f.uniform - 1)).modString (stringOf it.core) fun st =>
        { st with charging := st.charging + s1.weight f.cls * popMask it.act })
      ((s.modWarp it.core it.slot it.w (it.goes s.clock c f)).vregHaz it.core it.slot it.w f.regs) := rfl
  rw [hf, hz]
  dsimp only
  congr 1
  congr 1
  funext co
  exact ht co

theorem Issue.settled_finish {s : State} {it : Issue} {c : Ctl} (hi : s.warpIssue c = some it) (hs : it.settled = true)
    (f : Fin) : it.ends it.s (it.goes it.s.clock c f it.wp) (it.finish it.s c f) := by
  apply Issue.finish_ends
  obtain ⟨e, -, -, -, hg, -⟩ := warpIssue_parts hi
  intro g hg' x hx
  rw [e, bump_wg?, hg] at hg'
  cases hg'
  exact Issue.settled_hazards hs x hx

/-! Lanes of a result -/

theorem lane_setV (w : Warp) (n m L : Nat) (act : W32) (val : Nat → W32) (hL : L < 32) (hn : n < w.v.length) :
    (w.setV n act val).lane m L = if n = m ∧ laneBit act L then val L else w.lane m L := by
  simp only [Warp.lane, Warp.setV, List.getD_eq_getElem?_getD, List.getElem?_modify]
  by_cases h : n = m
  · subst h
    simp only [if_true, List.getElem?_eq_getElem hn, Option.getD_some, true_and]
    simp [hL]
  · simp [h]

theorem setV_length (w : Warp) (n : Nat) (act : W32) (val : Nat → W32) : (w.setV n act val).v.length = w.v.length := by
  simp [Warp.setV]

theorem mem_lanesOf {m : W32} {L : Nat} : L ∈ lanesOf m ↔ L < 32 ∧ laneBit m L = true := by
  simp [lanesOf, List.mem_filter, List.mem_range]

theorem laneBit_one (L M : Nat) (hL : L < 32) : laneBit (BitVec.ofNat 32 (2 ^ M)) L = decide (L = M) := by
  simp only [laneBit]
  rw [BitVec.getLsbD_ofNat]
  simp only [hL, decide_true, Bool.true_and, Nat.testBit_two_pow]
  by_cases h : M = L
  · simp [h]
  · have h' : ¬L = M := fun e => h e.symm
    simp [h, h']

/-- An operand that passes its check names registers of the warp in every active lane. -/
theorem regNo_bound {it : Issue} {o : Opnd} {k j : Nat} {L : Nat} {n : Int} (i : Nat) (hd : o.isDest = true)
    (hb : it.badOpnd i o k = none) (hL : L ∈ lanesOf it.act) (hn : it.regNo i o L = some n) (hj : j < k) :
    0 ≤ n + j ∧ n + j < it.wp.count := by
  have hs : it.srcLane o L = L := by
    cases o with
    | vreg m x => cases x <;> simp_all [Opnd.isDest, Opnd.isDestReg, Issue.srcLane, Xbar.lane]
    | vidx m f x => cases x <;> simp_all [Opnd.isDest, Opnd.isDestReg, Issue.srcLane, Xbar.lane]
    | _ => simp [Issue.srcLane]
  have hm : L ∈ it.srcLanes o := by
    simp only [Issue.srcLanes, List.mem_filter, List.mem_range, List.contains_eq_mem, List.mem_map, decide_eq_true_eq]
    exact ⟨(mem_lanesOf.1 hL).1, L, hL, hs⟩
  simp only [Issue.badOpnd, List.findSome?_eq_none_iff] at hb
  have h1 := hb L hm
  rw [hn] at h1
  simp only [List.find?_eq_none, List.mem_map, List.mem_range] at h1
  have h2 := h1 (n + j) ⟨j, hj, rfl⟩
  simp only [Issue.badReg, Bool.not_eq_true, Bool.or_eq_false_iff, decide_eq_false_iff_not] at h2
  omega

theorem putD_length (it : Issue) (o : Opnd) (j : Nat) (val : Nat → W32) (w : Warp) :
    (it.putD o j val w).v.length = w.v.length := by
  unfold Issue.putD
  split
  · exact setV_length ..
  · generalize lanesOf it.act = ls
    induction ls generalizing w with
    | nil => rfl
    | cons a r ih =>
      rw [List.foldl_cons, ih]
      split
      · exact setV_length ..
      · rfl
  · rfl

/-- The registers after a write of register j past D. -/
theorem lane_putD (it : Issue) (o : Opnd) (j k : Nat) (val : Nat → W32) (w : Warp) (hd : o.isDest = true)
    (hb : it.badOpnd 0 o k = none) (hj : j < k) (hl : w.v.length = it.wp.count) (n L : Nat) (hL : L < 32) :
    (it.putD o j val w).lane n L =
      if laneBit it.act L && (it.regNo 0 o L).map (· + (j : Int)) == some (n : Int) then val L else w.lane n L := by
  cases o with
  | vreg m x =>
    by_cases ha : laneBit it.act L = true
    · have hb' := regNo_bound (j := j) 0 hd hb (mem_lanesOf.2 ⟨hL, ha⟩) (n := (m.toNat : Int) + it.shift 0) rfl hj
      simp only [Issue.putD]
      rw [lane_setV _ _ _ _ _ _ hL (by omega)]
      simp only [Issue.regNo, ha, Option.map_some, Bool.true_and, and_true, beq_iff_eq, Option.some.injEq]
      by_cases hh : ((m.toNat : Int) + it.shift 0 + (j : Int)).toNat = n
      · rw [if_pos hh, if_pos (by omega)]
      · rw [if_neg hh, if_neg (by omega)]
    · simp only [Issue.putD]
      by_cases hq : ((m.toNat : Int) + it.shift 0 + (j : Int)).toNat < w.v.length
      · rw [lane_setV _ _ _ _ _ _ hL hq]; simp [ha]
      · have : w.setV ((m.toNat : Int) + it.shift 0 + (j : Int)).toNat it.act val = w := by
          simp [Warp.setV, List.modify_eq_self (Nat.le_of_not_lt hq)]
        rw [this]; simp [ha]
  | vidx xn off x =>
    have key : ∀ ls : List Nat, (∀ M ∈ ls, M ∈ lanesOf it.act) → ls.Nodup → ∀ w : Warp, w.v.length = it.wp.count →
        (ls.foldl (fun w L =>
          w.setV ((it.index 0 xn.toNat L : Int) + off.toInt + (j : Int)).toNat (BitVec.ofNat 32 (2 ^ L)) val) w).lane n L
        = if L ∈ ls ∧ (it.index 0 xn.toNat L : Int) + off.toInt + (j : Int) = (n : Int) then val L else w.lane n L := by
      intro ls
      induction ls with
      | nil => intro _ _ w _; simp
      | cons a r ih =>
        intro hm hnd w hlw
        rw [List.foldl_cons]
        have har : a ∉ r := (List.nodup_cons.1 hnd).1
        have ham := hm a (by simp)
        have hb' := regNo_bound (j := j) 0 hd hb ham
          (n := (it.index 0 xn.toNat a : Int) + off.toInt) rfl hj
        rw [ih (fun M h => hm M (by simp [h])) (List.nodup_cons.1 hnd).2 _ (by rw [setV_length]; exact hlw)]
        rw [lane_setV _ _ _ _ _ _ hL (by omega), laneBit_one _ _ hL]
        by_cases hLa : L = a
        · subst hLa
          simp only [har, false_and, if_false, decide_true, and_true, List.mem_cons, true_or, true_and]
          by_cases hh : ((it.index 0 xn.toNat L : Int) + off.toInt + (j : Int)).toNat = n
          · rw [if_pos hh, if_pos (by omega)]
          · rw [if_neg hh, if_neg (by omega)]
        · simp [hLa]
    refine (key (lanesOf it.act) (fun _ h => h) (List.Pairwise.filter _ List.nodup_range) w hl).trans ?_
    simp [mem_lanesOf, hL, Issue.regNo]
  | _ => simp [Issue.putD, Issue.regNo]

/-- A write of D changes v registers only. -/
theorem putD_eq (it : Issue) (o : Opnd) (j : Nat) (val : Nat → W32) (w : Warp) :
    it.putD o j val w = { w with v := (it.putD o j val w).v } := by
  unfold Issue.putD
  split
  · rfl
  · generalize lanesOf it.act = ls
    induction ls generalizing w with
    | nil => rfl
    | cons a r ih =>
      rw [List.foldl_cons, ih]
      split <;> rfl
  · rfl

theorem advance_eq (it : Issue) (f : Fin) (w : Warp) :
    it.advance f w = { w with rep := (it.advance f w).rep, pcs := (it.advance f w).pcs } := by
  unfold Issue.advance
  split
  · rfl
  · split <;> (dsimp only; split; · rfl
               · split <;> rfl)

/-- The places of the lanes after a word that goes to the next word. -/
theorem advance_pcs (it : Issue) (f : Fin) (hrep : it.wp.rep.active = false) (hn : f.next = none) (hs : f.stay = false)
    (L : Nat) (hL : L < 32) :
    (it.advance f it.wp).pcOf L = if laneBit it.gang.cand L then it.gang.pc + 12 else it.wp.pcOf L := by
  simp only [Issue.advance, hrep, hn, hs, Bool.false_and, Bool.false_eq_true, if_false, Warp.setPcs]
  simp [Warp.pcOf, hL]

/-- What `finish` leaves of the warp beside its place and timing. -/
theorem goes_still (it : Issue) (clock : Nat) (c : Ctl) (f : Fin) (w : Warp) :
    (it.goes clock c f w).still =
      { f.upd (it.advance f w) with fstat := (f.upd (it.advance f w)).fstat ||| f.flags }.still := by
  simp only [Issue.goes]
  split <;> rfl

theorem goes_pcs (it : Issue) (clock : Nat) (c : Ctl) (f : Fin) (w : Warp) :
    (it.goes clock c f w).pcs = (f.upd (it.advance f w)).pcs := by
  simp only [Issue.goes]
  split <;> rfl

theorem goes_v (it : Issue) (clock : Nat) (c : Ctl) (f : Fin) (w : Warp) :
    (it.goes clock c f w).v = (f.upd (it.advance f w)).v := by
  simp only [Issue.goes]
  split <;> rfl

theorem goes_p (it : Issue) (clock : Nat) (c : Ctl) (f : Fin) (w : Warp) :
    (it.goes clock c f w).p = (f.upd (it.advance f w)).p := by
  simp only [Issue.goes]
  split <;> rfl

theorem goes_x (it : Issue) (clock : Nat) (c : Ctl) (f : Fin) (w : Warp) :
    (it.goes clock c f w).x = (f.upd (it.advance f w)).x := by
  simp only [Issue.goes]
  split <;> rfl

theorem Warp.wf_parts {w : Warp} (h : w.wf = true) :
    w.v.length = w.count ∧ w.p.length = 7 ∧ w.x.length = 8 ∧ w.win.length = 8 := by
  simp only [Warp.wf, Bool.and_eq_true, beq_iff_eq] at h
  exact ⟨h.1.1.1, h.1.1.2, h.1.2, h.2⟩

/-- The end of a word goes to the next word when it changes no place itself. -/
theorem goes_advanced {it : Issue} {clock : Nat} {c : Ctl} {f : Fin} (hn : f.next = none) (hs : f.stay = false)
    (hu : ∀ w, (f.upd w).pcs = w.pcs) : it.advanced (it.goes clock c f it.wp) := by
  intro hrep L hL
  have := advance_pcs it f hrep hn hs L hL
  simpa only [Warp.pcOf, goes_pcs, hu] using this

/-- A word that only writes D, with its flags (R96): the end of a lane word. -/
theorem finish_writesV {s : State} {it : Issue} {c : Ctl} (hr : s.warpRuns c it) (d : Opnd) (val : Nat → W32) (f : Fin)
    (hd : d.isDest = true) (hb : it.badOpnd 0 d 1 = none) (hu : f.upd = it.putD d 0 val) (hn : f.next = none)
    (hs : f.stay = false) : it.writesV d val f.flags (it.finish it.s c f) := by
  obtain ⟨hi, -, hset⟩ := hr
  have hwf := Warp.wf_parts (Issue.settled_wf hset)
  refine ⟨_, Issue.settled_finish hi hset f, goes_advanced hn hs (by intro w; rw [hu, putD_eq]), ?_, ?_⟩
  · intro n L hL
    have hv : (it.goes it.s.clock c f it.wp).v = (it.putD d 0 val (it.advance f it.wp)).v := by rw [goes_v, hu]
    have := lane_putD it d 0 1 val (it.advance f it.wp) hd hb (by omega) (by rw [advance_eq]; exact hwf.1) n L hL
    simp only [Warp.lane] at this ⊢
    rw [hv, this, advance_eq]
    cases it.regNo 0 d L <;> simp
  · rw [goes_still, goes_v, hu, putD_eq, advance_eq]
    rfl

/-- A word that runs: everything of `guardedWord` but its body is settled. -/
theorem guardedWord_runs {s : State} {c : Ctl} {it : Issue} (hr : s.warpRuns c it) (traps : Bool) (body : Issue → Out) :
    guardedWord c traps body s = body it := by
  obtain ⟨hi, hg, hset⟩ := hr
  have hw : s.warpTurn = true := by
    obtain ⟨-, -, -, ha, -⟩ := warpIssue_parts hi
    simp [State.warpTurn, ha]
  unfold guardedWord
  simp only [hw, Bool.not_true, Bool.false_eq_true, if_false, hi]
  have hg' : ¬(c.grd == 0xF) = true := by simpa using hg
  have he : it.guardEarly c.grd = false := by
    unfold Issue.guardEarly
    simp [Issue.settled_early hset]
  rw [if_neg hg']
  simp [he]

/-- A word that may trap and runs. -/
theorem warpWord_runs {s : State} {c : Ctl} {it : Issue} (hr : s.warpRuns c it) (body : Issue → Out) :
    warpWord c body s = body it := guardedWord_runs hr true body

/-- Lane arithmetic that passes its checks (R96): one write of D, and flags. -/
theorem laneOp_writes {s : State} {it : Issue} (o : Op3) (cls : Nat) (a b : Option Imm) (c fixed : Bool)
    (f : W32 → W32 → W32 → W32 × Byte) (hr : s.warpRuns o.ctl it) (hd : o.d.isDest = true)
    (hb : it.regTrap ((0, o.d, 1) :: ((if a.isSome then [(1, o.a, 1)] else []) ++ (if b.isSome then [(2, o.b, 1)] else [])
      ++ (if c then [(0, o.d, 1)] else []))) = none) :
    let res (L : Nat) : W32 × Byte :=
      f (it.src 1 o.a (a.getD .sx) 0 L) (it.src 2 o.b (b.getD .sx) 0 L) (if c then it.src 0 o.d .sx 0 L else 0)
    ∃ t, laneOp o cls a b c fixed f s = .next t ∧
      it.writesV o.d (fun L => (res L).1) ((lanesOf it.act).foldl (fun z L => z ||| (res L).2) 0) t := by
  intro res
  have hbo : it.badOpnd 0 o.d 1 = none := by
    simp only [Issue.regTrap, List.findSome?_cons] at hb
    cases h : it.badOpnd 0 o.d 1 with
    | none => rfl
    | some n => rw [h] at hb; simp at hb
  unfold laneOp
  rw [warpWord_runs hr]
  dsimp only
  rw [Issue.stallTrap_settled hr.2.2, hb]
  exact ⟨_, rfl, finish_writesV hr o.d _ _ hd hbo rfl rfl rfl⟩

end Sys2Proof.Machine
end

