-- ==== Sys2Proof/Tests/Slice0.lean ====
section
/-!
SUPPORT. Tests: ill-formed words that `Instr.wf` refuses, words written out bit by bit from R63 to R80, one state for every set of
hypotheses that the statements name (`hyp_...`), and results worked out by hand from the rules (`test_...`).
-/
namespace Sys2Proof.Tests
open Machine

-- The proofs below are checked one after the other: each is a kernel evaluation, and many at once exhaust the threads.
set_option Elab.async false

/-! States -/

/-- GRD 0111, STL 1. -/
def c7 : Ctl := { grd := 7, stl := 1, yld := 0, ru := 0 }
/-- GRD 1111. -/
def cF : Ctl := { grd := 0xF, stl := 1, yld := 0, ru := 0 }
/-- GRD 0000: predicate p0. -/
def cP0 : Ctl := { grd := 0, stl := 1, yld := 0, ru := 0 }
/-- A word in operand form. -/
def opx (var : BitVec 8) (xt : BitVec 11) (d a b : Opnd) : Op3 := { ctl := c7, var, xt, sid := 0, d, a, b }
def op (var : BitVec 8) (d a b : Opnd) : Op3 := opx var 0 d a b
/-- A word in long-immediate form. -/
def opl (var : BitVec 8) (xt : BitVec 11) (d : Opnd) (imm : W32) : OpL := { ctl := c7, var, xt, sid := 0, d, imm }
def v (n : BitVec 8) : Opnd := .vreg n .id
def d (n : BitVec 5) : Opnd := .dreg n
def no : Opnd := .unused

/-- 64 KiB at the base of host memory, which no table of a function owns. -/
def page (va pa : Nat) : TlbEntry := { vf := 0, va, size := 65536, pa, x := true, w := true, rd := true }

/-- The module up, with one page of function 0 in core 0's TLB, and a launch of function 0. -/
def up : State :=
  { State.reset with
    up := true
    launches := [{ vf := 0, lid := 1, image := 0, region := 0, parent := none, endedAs := none, reserved := [], restarts := [], badSaves := [], begun := false }] }.modCore 0
    fun co => { co with tlb := [page 0 Config.hostBase] }

/-- Warp 0 of slot 0 of core 0 is in turn. -/
def warpS (f : Workgroup → Workgroup) : State :=
  { up.setSlot 0 0 (some (f (up.openWg true))) with cur := { core := 0, slot := 0, agent := .warp 0 } }

/-- The driver of slot 0 of core 0 is in turn. -/
def drvS (f : Workgroup → Workgroup) : State :=
  { up.setSlot 0 0 (some (f (up.openWg false))) with cur := { core := 0, slot := 0, agent := .driver } }

/-- The ostler of core 0 is in turn. -/
def ostS (f : Ostler → Ostler) : State := { up.modOstler 0 f with cur := { core := 0, slot := 8, agent := .ostler } }

def onWarp (f : Warp → Warp) (g : Workgroup) : Workgroup := { g with warps := g.warps.modify 0 f }
def onDrv (f : Driver → Driver) (g : Workgroup) : Workgroup := { g with drv := f g.drv }
/-- v register n of warp 0 holds x in every lane. -/
def vreg (n : Nat) (x : W32) : Workgroup → Workgroup := onWarp fun w => { w with v := w.v.set n (List.replicate 32 x) }
/-- Driver register n holds x. -/
def dreg (n : Nat) (x : W64) : Workgroup → Workgroup := onDrv fun r => { r with d := r.d.set n x }
/-- Ostler register n holds x. -/
def oreg (n : Nat) (x : W64) (o : Ostler) : Ostler := { o with d := o.d.set n x }

/-- The issue of the warp in turn. -/
def wIt (s : State) (c : Ctl) : Issue :=
  (s.warpIssue c).getD { s := s, core := 0, slot := 0, w := 0, wg := default, wp := default, gang := default, act := 0,
                         sh := (0, 0, 0), ctr := 0 }
/-- The issue of the driver or ostler in turn. -/
def dIt (s : State) : DIssue :=
  s.drvIssue.getD { s := s, core := 0, slot := 0, wg := none, pc := 0, d := [], ctr := 0 }

def wRuns (s : State) (c : Ctl) : Bool := (s.warpIssue c).isSome && c.grd != 0xF && (wIt s c).settled
def dRuns (s : State) (c : Ctl) : Bool := s.drvIssue.isSome && c.grd != 0xF && s.replay == none

theorem warpRuns_of {s : State} {c : Ctl} (h : wRuns s c = true) : s.warpRuns c (wIt s c) := by
  simp only [wRuns, Bool.and_eq_true, bne_iff_ne] at h
  obtain ⟨⟨h1, h2⟩, h3⟩ := h
  refine ⟨?_, h2, h3⟩
  unfold wIt
  cases hx : s.warpIssue c with
  | none => simp [hx] at h1
  | some x => rfl

theorem drvRuns_of {s : State} {c : Ctl} (h : dRuns s c = true) : s.drvRuns c (dIt s) := by
  simp only [dRuns, Bool.and_eq_true, bne_iff_ne, beq_iff_eq] at h
  refine ⟨?_, h.1.2, h.2⟩
  unfold dIt
  cases hx : s.drvIssue with
  | none => simp [hx] at h
  | some x => rfl

/-- The workgroup of the driver in turn. -/
def gOf (s : State) : Workgroup := (dIt s).wg.getD default

theorem wgRuns_of {s : State} {c : Ctl} (h : dRuns s c = true) (hg : (dIt s).wg.isSome = true) : s.wgRuns c (dIt s) (gOf s) := by
  refine ⟨drvRuns_of h, ?_⟩
  unfold gOf
  cases hx : (dIt s).wg with
  | none => simp [hx] at hg
  | some x => rfl

/-- Whether a command finds everything at rest. -/
def atRest (it : DIssue) (g : Workgroup) : Bool :=
  it.s.replay == none && (it.s.hazardsOf it.core).isEmpty && it.s.frameHazards.isEmpty && (it.s.core it.core).badWords.isEmpty &&
    (it.s.core it.core).smear.isEmpty && g.hazards.isEmpty && g.open_.all fun q => match q.pend with | .retry _ => false | _ => true

theorem calm_of {it : DIssue} {g : Workgroup} (h : atRest it g = true) : it.calm g := by
  simp only [atRest, Bool.and_eq_true, beq_iff_eq, List.isEmpty_iff, List.all_eq_true] at h
  obtain ⟨⟨⟨⟨⟨⟨h1, h2⟩, h3⟩, h4⟩, h5⟩, h6⟩, h7⟩ := h
  refine ⟨h1, h2, h3, h4, h5, h6, fun q hq r hr => ?_⟩
  simpa [hr] using h7 q hq

theorem sysRuns_of {s : State} {c : Ctl} (h : dRuns s c = true) (hp : s.privileged = true) : s.sysRuns c (dIt s) :=
  ⟨drvRuns_of h, hp⟩

theorem ok_of {ε α : Type} {e : Except ε α} {x : α} (h : e.toOption = some x) : e = .ok x := by
  cases e with
  | ok y => simpa [Except.toOption] using h
  | error y => simp [Except.toOption] at h

/-- Whether nothing waits to leave memory, as `State.atRest` asks. -/
def restOk (s : State) : Bool := s.memBad == [] && s.regQueue == [] && s.cores.all fun co => co.l1.all fun l => !s.regLine l

theorem rest_of {s : State} (h : restOk s = true) : s.atRest := by
  simpa [restOk, State.atRest, and_assoc] using h

/-- Whether memory and caches are as `State.Mem` asks. -/
def memOk (s : State) : Bool :=
  s.mem.wf && s.cores.all fun co => co.scratch.wf && decide (co.l1.map (·.line)).Nodup && co.l1.all fun l => l.data.length == 64

theorem mem_of {s : State} (h : memOk s = true) : s.Mem := by
  simp only [memOk, Bool.and_eq_true, List.all_eq_true, decide_eq_true_eq, beq_iff_eq] at h
  exact ⟨h.1, fun co hc => (h.2 co hc).1.1, fun co hc => (h.2 co hc).1.2, fun co hc l hl => (h.2 co hc).2 l hl⟩

def regsOk (s : State) : Bool :=
  s.cores.length == Config.nCores && s.cores.all Core.wf && s.strings.length == Config.nStrings && s.vfs.length == Config.nVfs
    && s.rails.length == 4 && s.ports.length == Config.nPorts && s.mr.length == 8

theorem regs_of {s : State} (h : regsOk s = true) : s.Regs := by
  simp only [regsOk, Bool.and_eq_true, List.all_eq_true, beq_iff_eq] at h
  obtain ⟨⟨⟨⟨⟨⟨h1, h2⟩, h3⟩, h4⟩, h5⟩, h6⟩, h7⟩ := h
  exact ⟨h1, h2, h3, h4, h5, h6, h7⟩

/-- What an SPD names, as a triple. -/
def placed : SpdRes → Option (Nat × Nat × Nat)
  | .at_ a b c => some (a, b, c)
  | _ => none

theorem at_of {r : SpdRes} {a b c : Nat} (h : placed r = some (a, b, c)) : r = .at_ a b c := by
  cases r <;> simp_all [placed]

/-- The word's outcome. -/
def after (i : Instr) (s : State) : State := match exec i s with | .next t => t | _ => s
/-- Warp 0, and the driver, of slot 0 of core 0. -/
def warp0 (s : State) : Warp := ((s.wg? 0 0).getD default).warps.getD 0 default
def drv0 (s : State) : Driver := ((s.wg? 0 0).getD default).drv

/-! Words -/

/-- Every word of the list decodes to the instruction beside it. -/
def readsAs (xs : List (W96 × Instr)) : Bool := xs.all fun x => decide ((decode x.1).toOption = some x.2)

theorem test_words_control : readsAs [
    (0x0000_0400_0000_0000_0007_0000, .nop (opx 0 0 no no no))] = true := by decide +kernel

theorem test_words_integer : readsAs [
    (0x0000_05F0_C300_4FCF_F007_4101, .iadd (opx 65 0 (v 255) (.vreg 1 (.rot 31)) (.vidx 7 16 (.bcs 3)))),
    (0x0000_05F0_C300_4FCF_F007_4002, .isub (opx 64 0 (v 255) (.vreg 1 (.rot 31)) (.vidx 7 16 (.bcs 3)))),
    (0x0000_05F0_C300_4FCF_F007_4103, .imul (opx 65 0 (v 255) (.vreg 1 (.rot 31)) (.vidx 7 16 (.bcs 3)))),
    (0x0000_05F0_C300_4FCF_F007_4105, .imad (opx 65 0 (v 255) (.vreg 1 (.rot 31)) (.vidx 7 16 (.bcs 3)))),
    (0x0000_06FF_FF00_8000_1007_0104, .imulh (opx 1 0 (v 1) (v 2) (.imm 65535))),
    (0x0000_06FF_FF00_8000_1007_0106, .imin (opx 1 0 (v 1) (v 2) (.imm 65535))),
    (0x0000_06FF_FF00_8000_1007_0107, .imax (opx 1 0 (v 1) (v 2) (.imm 65535))),
    (0x0000_0400_0000_A800_1007_4008, .iabs (opx 64 0 (v 1) (.vreg 2 .fa) no)),
    (0x0000_0600_1F00_A140_1007_0009, .shl (opx 0 0 (v 1) (.vreg 2 (.mir 5)) (.imm 31))),
    (0x0000_0600_1F00_A140_1007_000A, .shr (opx 0 0 (v 1) (.vreg 2 (.mir 5)) (.imm 31))),
    (0x0000_0600_1F00_A140_1007_000B, .sar (opx 0 0 (v 1) (.vreg 2 (.mir 5)) (.imm 31))),
    (0x0000_0600_1F00_A140_1007_000C, .and (opx 0 0 (v 1) (.vreg 2 (.mir 5)) (.imm 31))),
    (0x0000_0600_1F00_A140_1007_000D, .or (opx 0 0 (v 1) (.vreg 2 (.mir 5)) (.imm 31))),
    (0x0000_0600_1F00_A140_1007_000E, .xor (opx 0 0 (v 1) (.vreg 2 (.mir 5)) (.imm 31))),
    (0x0000_1002_0000_4000_4007_960F, .lut3 { opx 150 0 (v 4) (v 1) (v 2) with ctl := { grd := 7, stl := 4, yld := 0, ru := 0 } }),
    (0x0000_0400_0000_9C35_0007_0010, .popc (opx 0 0 .zero (.vreg 2 (.bfly 16)) no)),
    (0x0000_0400_0000_9C35_0007_0011, .clz (opx 0 0 .zero (.vreg 2 (.bfly 16)) no)),
    (0x0000_0400_0000_9C35_0007_0012, .brev (opx 0 0 .zero (.vreg 2 (.bfly 16)) no)),
    (0x0000_0608_0400_8000_1007_0113, .bfx (opx 1 0 (v 1) (v 2) (.imm 2052))),
    (0x0000_0403_5F00_8000_1007_0014, .bfi (opx 0 0 (v 1) (v 2) (.vreg 3 (.bc 31)))),
    (0x0000_0600_0500_8030_0067_5115, .isetp (opx 81 0 (.pred 6) (v 2) (.imm 5))),
    (0x01E0_0403_0000_8000_1007_0016, .sel (opx 0 15 (v 1) (v 2) (v 3))),
    (0x0000_0600_FF00_8000_1007_4417, .idot4 (opx 68 0 (v 1) (v 2) (.imm 255)))] = true := by decide +kernel

theorem test_words_float : readsAs [
    (0x01E0_0403_0000_8000_1007_3220, .fadd (opx 50 15 (v 1) (v 2) (v 3))),
    (0x01E0_0403_0000_8000_1007_3221, .fsub (opx 50 15 (v 1) (v 2) (v 3))),
    (0x01E0_0403_0000_8000_1007_3222, .fmul (opx 50 15 (v 1) (v 2) (v 3))),
    (0x03E0_0403_0000_8000_1007_1223, .fma (opx 18 31 (v 1) (v 2) (v 3))),
    (0x00A0_063F_C000_8000_1007_0224, .fmin (opx 2 5 (v 1) (v 2) (.imm 16320))),
    (0x00A0_063F_C000_8000_1007_0225, .fmax (opx 2 5 (v 1) (v 2) (.imm 16320))),
    (0x01E0_0403_0000_8030_0007_7226, .fsetp (opx 114 15 (.pred 0) (v 2) (v 3))),
    (0x00A0_0400_0000_8000_1007_0227, .fclass (opx 2 5 (v 1) (v 2) no)),
    (0x0080_0400_0000_8000_1007_2228, .frnd (opx 34 4 (v 1) (v 2) no)),
    (0x0080_0400_0000_8000_1007_0229, .frcp (opx 2 4 (v 1) (v 2) no)),
    (0x0080_0400_0000_8000_1007_022A, .frsq (opx 2 4 (v 1) (v 2) no)),
    (0x0080_0400_0000_8000_1007_222B, .fsqrt (opx 34 4 (v 1) (v 2) no)),
    (0x0080_0400_0000_8000_1007_022C, .fexp2 (opx 2 4 (v 1) (v 2) no)),
    (0x0080_0400_0000_8000_1007_022D, .flog2 (opx 2 4 (v 1) (v 2) no)),
    (0x0080_0400_0000_8000_1007_022E, .fsin (opx 2 4 (v 1) (v 2) no)),
    (0x0080_0400_0000_8000_1007_022F, .fcos (opx 2 4 (v 1) (v 2) no)),
    (0x0020_06FF_FD00_8000_1007_0230, .fscale (opx 2 1 (v 1) (v 2) (.imm 65533))),
    (0x0040_063F_8000_8000_1007_0331, .hadd2 (opx 3 2 (v 1) (v 2) (.imm 16256))),
    (0x0040_063F_8000_8000_1007_0332, .hmul2 (opx 3 2 (v 1) (v 2) (.imm 16256))),
    (0x0200_0403_0000_8000_1007_0333, .hfma2 (opx 3 16 (v 1) (v 2) (v 3))),
    (0x00E0_0400_0000_8000_1007_4034, .cvt (opx 64 7 (v 1) (v 2) no)),
    (0x0000_0400_0001_8000_4007_0035, .qnt48 (opx 0 0 (v 4) (v 6) no))] = true := by decide +kernel

theorem test_words_moves : readsAs [
    (0x0000_0400_0000_8030_0067_0040, .mov (opx 0 0 (.pred 6) (v 2) no)),
    (0x0000_0420_0000_0040_9007_0041, .movi (opl 0 0 (v 9) 2147483649)),
    (0x0000_0400_0080_0640_1007_0042, .sread (opx 0 0 (v 1) (.imm 25) no)),
    (0x0000_0400_0080_0500_1007_0142, .sreadClr (opx 1 0 (v 1) (.imm 20) no)),
    (0x0000_0400_00C0_00C0_1007_0743, .vote (opx 7 0 (v 1) (.pred 3) no)),
    (0x00A0_0400_0000_8000_1007_0144, .wred (opx 1 5 (v 1) (v 2) no)),
    (0x0040_0400_0000_8000_1007_8245, .wscan (opx 130 2 (v 1) (v 2) no)),
    (0x0000_0700_07C0_0070_0007_0846, .plop (opx 8 0 (.pred 0) (.pred 1) (.pred 7))),
    (0x0000_0400_0000_8033_0077_0047, .xset (opx 0 0 (.xreg 7) (v 2) no)),
    (0x0000_0601_0080_3FF3_0077_0048, .xwin (opx 0 0 (.xreg 7) (.imm 255) (.imm 256))),
    (0x0000_0400_00BF_FFF3_0007_0049, .xadd (opx 0 0 (.xreg 0) (.imm 65535) no)),
    (0x0000_0600_0280_0100_0007_034A, .rep (opx 3 0 no (.imm 4) (.imm 2))),
    (0x0000_0400_0000_000F_E007_004B, .dqpop (opx 0 0 (v 254) no no))] = true := by decide +kernel

theorem test_words_memory : readsAs [
    (0x0046_06FF_FC01_0000_1007_9C50, .ld { opx 156 2 (v 1) (v 4) (.imm 65532) with sid := 3 }),
    (0x003E_0407_0001_0000_2007_D551, .st { opx 213 1 (v 2) (v 4) (v 7) with sid := 15 }),
    (0x0000_0600_0800_C000_4007_4652, .lds (opx 70 0 (v 4) (v 3) (.imm 8))),
    (0x0000_0600_08D0_01C0_1007_0453, .sts (opx 4 0 (v 1) (.slot 7) (.imm 8))),
    (0x0700_0600_0801_0000_2007_A454, .atom (opx 164 56 (v 2) (v 4) (.imm 8))),
    (0x1100_0402_00D0_0000_1007_0455, .atoms (opx 4 136 (v 1) (.slot 0) (v 2))),
    (0x0900_0600_0001_0000_1007_8B56, .red (opx 139 72 (v 1) (v 4) (.imm 0))),
    (0x0004_06FF_FF00_0000_0007_E057, .fence { opx 224 0 no no (.imm 65535) with sid := 2 }),
    (0x0000_06FF_FF80_0040_0007_6058, .fencex (opx 96 0 no (.imm 1) (.imm 65535))),
    (0x0002_0403_003F_8035_0007_0159, .pref { opx 1 0 .zero (v 254) (v 3) with sid := 1 }),
    (0x0000_0600_0000_0035_0007_005A, .cctl (opx 0 0 .zero (v 0) (.imm 0)))] = true := by decide +kernel

theorem test_words_branches : readsAs [
    (0x0000_043F_FFFF_FF75_0007_0060, .bra (opl 0 0 .zero 4294967293)),
    (0x0000_0400_0000_0075_0007_0061, .bru (opl 0 0 .zero 1)),
    (0x0000_0400_0001_8000_0007_0062, .brx (opx 0 0 no (v 6) no)),
    (0x1FC0_041F_FFFF_FFF5_0007_0063, .call (opl 0 254 .zero 2147483647)),
    (0x0000_0400_003F_8000_0007_0064, .ret (opx 0 0 no (v 254) no)),
    (0x0000_0400_0000_0000_0008_0065, .exit { opx 0 0 no no no with ctl := { grd := 8, stl := 1, yld := 0, ru := 0 } })] = true := by decide +kernel

theorem test_words_meetings : readsAs [
    (0x0000_0400_0000_0000_0007_0066, .hitch (opx 0 0 no no no)),
    (0x0000_0400_0080_03C0_0007_0067, .bar (opx 0 0 no (.imm 15) no)),
    (0x0000_0400_0080_0000_0007_0167, .barArv (opx 1 0 no (.imm 0) no)),
    (0x0000_0400_0080_00C0_0007_0068, .role (opx 0 0 no (.imm 3) no)),
    (0x0000_0400_0080_3FC0_0007_0069, .fbp (opx 0 0 no (.imm 255) no)),
    (0x0000_0400_0000_0000_0007_006A, .yield (opx 0 0 no no no)),
    (0x0000_0400_00BF_FFC0_0007_006B, .trap (opx 0 0 no (.imm 65535) no)),
    (0x0000_0403_2100_0000_0007_016C, .racc (opx 1 0 no no (.vreg 3 (.rot 1)))),
    (0x0000_0400_00C0_01C0_1007_006D, .rfirst (opx 0 0 (v 1) (.pred 7) no)),
    (0x0000_0400_0000_0000_0007_006E, .rsigGuessed (opx 0 0 no no no)),
    (0x0000_0400_0000_0000_0001_016E, .rsigExit { opx 1 0 no no no with ctl := { grd := 1, stl := 1, yld := 0, ru := 0 } }),
    (0x0000_0400_0000_0000_0007_006F, .rjoin (opx 0 0 no no no))] = true := by decide +kernel

theorem test_words_driver_1 : readsAs [
    (0x0000_06FF_FFC8_0072_01F7_0080, .dadd (opx 0 0 (.dreg 31) (.dreg 1) (.imm 65535))),
    (0x0000_06FF_FFC8_0072_01F7_0081, .dsub (opx 0 0 (.dreg 31) (.dreg 1) (.imm 65535))),
    (0x0000_06FF_FFC8_0072_01F7_0082, .dmul (opx 0 0 (.dreg 31) (.dreg 1) (.imm 65535))),
    (0x0000_06FF_FFC8_0072_01F7_0085, .dand (opx 0 0 (.dreg 31) (.dreg 1) (.imm 65535))),
    (0x0000_06FF_FFC8_0072_01F7_0086, .dor (opx 0 0 (.dreg 31) (.dreg 1) (.imm 65535))),
    (0x0000_06FF_FFC8_0072_01F7_0087, .dxor (opx 0 0 (.dreg 31) (.dreg 1) (.imm 65535))),
    (0x0000_06FF_FFC8_0072_01F7_0088, .dshl (opx 0 0 (.dreg 31) (.dreg 1) (.imm 65535))),
    (0x0000_06FF_FFC8_0072_01F7_0089, .dshr (opx 0 0 (.dreg 31) (.dreg 1) (.imm 65535))),
    (0x0000_06FF_FFC8_0072_01F7_008A, .dsar (opx 0 0 (.dreg 31) (.dreg 1) (.imm 65535))),
    (0x0000_0720_02C8_0072_0037_0183, .dmulh (opx 1 0 (.dreg 3) (.dreg 1) (.dreg 2))),
    (0x0000_0750_00C8_0072_0037_0384, .ddiv (opx 3 0 (.dreg 3) (.dreg 1) .zero)),
    (0x0000_0720_02C8_0072_0037_518B, .dset (opx 81 0 (.dreg 3) (.dreg 1) (.dreg 2))),
    (0x03E0_0720_02C8_0072_0037_008C, .dsel (opx 0 31 (.dreg 3) (.dreg 1) (.dreg 2))),
    (0x0000_0437_AB6F_BBF2_01F7_028D, .dmovi (opl 2 0 (.dreg 31) 3735928559)),
    (0x0042_0600_08C8_0132_0037_958E, .dld { opx 149 2 (.dreg 3) (.dreg 4) (.imm 8) with sid := 1 }),
    (0x0000_0720_05C8_0135_0007_838F, .dst (opx 131 0 .zero (.dreg 4) (.dreg 5))),
    (0x0700_0600_08C8_0132_01E7_A590, .datom (opx 165 56 (.dreg 30) (.dreg 4) (.imm 8))),
    (0x0000_0600_08D0_01F2_0037_0491, .dlds (opx 4 0 (.dreg 3) (.slot 7) (.imm 8))),
    (0x0000_0600_08C8_0132_0037_5592, .dsts (opx 85 0 (.dreg 3) (.dreg 4) (.imm 8))),
    (0x0820_043F_FFFF_FFF5_0007_0093, .dbra (opl 0 65 .zero 4294967295)),
    (0x03E0_0400_0000_0135_0007_0094, .dcall (opl 0 31 .zero 4)),
    (0x0000_0400_00C8_07C0_0007_0095, .dret (opx 0 0 no (.dreg 31) no)),
    (0x0000_0400_0000_0000_0007_0096, .dend (opx 0 0 no no no)),
    (0x0000_0400_0080_20F2_0017_0097, .dsread (opx 0 0 (.dreg 1) (.imm 131) no))] = true := by decide +kernel

theorem test_words_driver_2 : readsAs [
    (0x0008_06FF_FF00_0000_0007_A098, .dfence { opx 160 0 no no (.imm 65535) with sid := 4 }),
    (0x0000_0400_00C8_0040_0007_0099, .dqpush (opx 0 0 no (.dreg 1) no)),
    (0x0000_0400_0080_03C0_0007_009A, .dbar (opx 0 0 no (.imm 15) no)),
    (0x0000_0400_0080_03C0_0007_019A, .dbarArv (opx 1 0 no (.imm 15) no)),
    (0x0000_0720_03C8_00B2_0017_009B, .dhash (opx 0 0 (.dreg 1) (.dreg 2) (.dreg 3))),
    (0x0000_0608_04C8_00B2_0017_039C, .dbit (opx 3 0 (.dreg 1) (.dreg 2) (.imm 2052)))] = true := by decide +kernel

theorem test_words_engines_1 : readsAs [
    (0x0000_0720_05C8_0131_01F7_0EB0, .mma (opx 14 0 (.tile 31) (.dreg 4) (.dreg 5))),
    (0xFFE0_0720_05C8_0131_0007_09B1, .mmag (opx 9 2047 (.tile 0) (.dreg 4) (.dreg 5))),
    (0x0000_0720_05C4_0071_0007_01B2, .scacc (opx 1 0 (.tile 0) (.tile 1) (.dreg 5))),
    (0x0000_0750_00C4_07F2_0017_02B3, .drain (opx 2 0 (.dreg 1) (.tile 31) .zero)),
    (0x0000_0400_0000_0031_0037_01B4, .aclr (opx 1 0 (.tile 3) no no)),
    (0x0000_0750_00C8_0131_0037_01B5, .ald (opx 1 0 (.tile 3) (.dreg 4) .zero)),
    (0x0000_0720_05C4_00F2_0047_00B6, .ast (opx 0 0 (.dreg 4) (.tile 3) (.dreg 5))),
    (0x0000_0720_05C8_0771_0007_00B7, .attn (opx 0 0 (.tile 0) (.dreg 29) (.dreg 5))),
    (0x0000_0400_00C4_0071_0007_00B8, .atmerge (opx 0 0 (.tile 0) (.tile 1) no)),
    (0x0000_0400_00C4_07F2_0047_01B9, .atnorm (opx 1 0 (.dreg 4) (.tile 31) no)),
    (0x0012_0720_1EC8_0172_0047_C2BA, .copy { opx 194 0 (.dreg 4) (.dreg 5) (.dreg 30) with sid := 9 }),
    (0x0012_0720_1EC8_0172_0047_81BB, .copyx { opx 129 0 (.dreg 4) (.dreg 5) (.dreg 30) with sid := 9 }),
    (0x0000_0400_0080_03C0_0007_00BC, .bfence (opx 0 0 no (.imm 15) no)),
    (0x0000_0400_0080_03C0_0007_00BD, .bwait (opx 0 0 no (.imm 15) no)),
    (0x0000_0400_0000_0032_0017_01BE, .evpop (opx 1 0 (.dreg 1) no no)),
    (0x0000_0750_00C8_00B2_0017_00BF, .launch (opx 0 0 (.dreg 1) (.dreg 2) .zero)),
    (0x0000_0720_1EC8_00B2_0017_00C0, .kvfindLook (opx 0 0 (.dreg 1) (.dreg 2) (.dreg 30))),
    (0x0000_0720_1EC8_00B2_0017_01C0, .kvfindRef (opx 1 0 (.dreg 1) (.dreg 2) (.dreg 30))),
    (0x0000_0720_1EC8_00B2_0017_02C0, .kvfindUnref (opx 2 0 (.dreg 1) (.dreg 2) (.dreg 30))),
    (0x0000_0720_1DC8_00B2_0017_00C1, .kvins (opx 0 0 (.dreg 1) (.dreg 2) (.dreg 29))),
    (0x01E0_0720_03C8_00B2_0017_03C2, .kvapp (opx 3 15 (.dreg 1) (.dreg 2) (.dreg 3))),
    (0x0000_0400_0080_0C32_0017_00C3, .kvtrim (opx 0 0 (.dreg 1) (.imm 48) no)),
    (0x0000_0400_00C8_00B2_0017_00C4, .kvown (opx 0 0 (.dreg 1) (.dreg 2) no)),
    (0x0000_0720_03C8_00B2_0017_00C5, .kvpull (opx 0 0 (.dreg 1) (.dreg 2) (.dreg 3)))] = true := by decide +kernel

theorem test_words_engines_2 : readsAs [
    (0x0000_0400_0080_3FF2_0017_00C6, .wsref (opx 0 0 (.dreg 1) (.imm 255) no)),
    (0x0000_0720_02C8_0040_0007_00C7, .wsswap (opx 0 0 no (.dreg 1) (.dreg 2))),
    (0x0000_0720_1E80_3FC0_0007_00C8, .wsbcast (opx 0 0 no (.imm 255) (.dreg 30))),
    (0x0000_0720_02C8_0040_0007_00C9, .wspull (opx 0 0 no (.dreg 1) (.dreg 2))),
    (0x0000_0720_02C8_0074_0077_03CA, .objnew (opx 3 0 (.slot 7) (.dreg 1) (.dreg 2))),
    (0x0000_0400_00C8_0074_0077_01CB, .objopen (opx 1 0 (.slot 7) (.dreg 1) no)),
    (0x0000_0720_1ED0_01C0_0007_01CC, .objhand (opx 1 0 no (.slot 7) (.dreg 30))),
    (0x0000_0400_00D0_01C0_0007_00CD, .objdrop (opx 0 0 no (.slot 7) no)),
    (0x0000_0400_00D0_01C0_0007_00CE, .objsync (opx 0 0 no (.slot 7) no)),
    (0x0000_0400_00C8_0740_0007_00CF, .relay (opx 0 0 no (.dreg 29) no)),
    (0x0000_0400_0000_0032_0017_00D0, .rwait (opx 0 0 (.dreg 1) no no))] = true := by decide +kernel

theorem test_words_system_1 : readsAs [
    (0x0000_0720_0280_0100_0007_00E0, .swrite (opx 0 0 no (.imm 4) (.dreg 2))),
    (0x0000_0600_0EC8_00B2_0017_00E1, .rtt (opx 0 0 (.dreg 1) (.dreg 2) (.imm 14))),
    (0x0000_0600_07C8_00B2_0017_01E2, .ctxsave (opx 1 0 (.dreg 1) (.dreg 2) (.imm 7))),
    (0x0000_0600_07C8_00B2_0017_00E3, .ctxload (opx 0 0 (.dreg 1) (.dreg 2) (.imm 7))),
    (0x0000_0600_3FC8_00B2_0017_00E4, .tlbinvPg (opx 0 0 (.dreg 1) (.dreg 2) (.imm 63))),
    (0x0000_0600_3FC8_0032_0017_01E4, .tlbinvVf (opx 1 0 (.dreg 1) (.dreg 0) (.imm 63))),
    (0x0000_0720_03C8_00B2_0017_02E4, .tlbinvAll (opx 2 0 (.dreg 1) (.dreg 2) (.dreg 3))),
    (0x0000_0720_03C8_00B2_0017_00E5, .l2opWb (opx 0 0 (.dreg 1) (.dreg 2) (.dreg 3))),
    (0x0000_0720_03C8_00B2_0017_01E5, .l2opInv (opx 1 0 (.dreg 1) (.dreg 2) (.dreg 3))),
    (0x0000_0720_03C8_00B2_0017_02E5, .l2opWbi (opx 2 0 (.dreg 1) (.dreg 2) (.dreg 3))),
    (0x0000_0720_0280_0FF2_0017_03E5, .l2opVfwb (opx 3 0 (.dreg 1) (.imm 63) (.dreg 2))),
    (0x0000_0600_0700_0032_0017_00E6, .halt (opx 0 0 (.dreg 1) no (.imm 7))),
    (0x0000_0720_03C8_00B2_0017_00E7, .qclaim (opx 0 0 (.dreg 1) (.dreg 2) (.dreg 3))),
    (0x0000_0600_00C8_00B2_0017_00E8, .wgstart (opx 0 0 (.dreg 1) (.dreg 2) (.imm 0))),
    (0x0000_0400_0080_0FF2_0017_00E9, .scrub (opx 0 0 (.dreg 1) (.imm 63) no)),
    (0x0000_0400_0080_0FF2_0017_00EA, .draint (opx 0 0 (.dreg 1) (.imm 63) no)),
    (0x0000_0600_0F80_00F2_0017_00EB, .pwrset (opx 0 0 (.dreg 1) (.imm 3) (.imm 15))),
    (0x0000_0720_0280_0FF2_0017_00EC, .strset (opx 0 0 (.dreg 1) (.imm 63) (.dreg 2))),
    (0x0000_0400_0080_0FF2_0017_00ED, .gateNow (opx 0 0 (.dreg 1) (.imm 63) no)),
    (0x0000_0400_0080_0FF2_0017_01ED, .gateWake (opx 1 0 (.dreg 1) (.imm 63) no)),
    (0x0000_0400_0080_0FF2_0017_02ED, .gateHold (opx 2 0 (.dreg 1) (.imm 63) no)),
    (0x0000_0400_0080_0FF2_0017_03ED, .gateAuto (opx 3 0 (.dreg 1) (.imm 63) no)),
    (0x0000_0600_00C8_00B2_0017_00EE, .rtcallMeasure (opx 0 0 (.dreg 1) (.dreg 2) (.imm 0))),
    (0x0000_0600_01C8_00B2_0017_00EE, .rtcallVerify (opx 0 0 (.dreg 1) (.dreg 2) (.imm 1)))] = true := by decide +kernel

theorem test_words_system_2 : readsAs [
    (0x0000_0600_02C8_00B2_0017_00EE, .rtcallQuote (opx 0 0 (.dreg 1) (.dreg 2) (.imm 2)))] = true := by decide +kernel

/-! Ill-formed words: each breaks one check, and `hyp_` and `test_words_` theorems have well-formed neighbours -/

def ill (xs : List Instr) : Bool := xs.all fun i => !i.wf
def bad (ctl : Ctl) (o : Op3) : Op3 := { o with ctl }
def ru (n : BitVec 2) : Ctl := { c7 with ru := n }

theorem test_ill_controls : ill [
    .nop { op 0 no no no with sid := 1 }, .nop (op 1 no no no), .nop (opx 0 1 no no no), .nop (op 0 (v 1) no no), .nop (op 0 no (v 1) no),
    .nop (op 0 no no (v 1)), .nop (bad (ru 1) (op 0 no no no)), .iadd (bad (ru 2) (op 0 (v 1) (v 2) (.imm 1))),
    .iadd (bad (ru 1) (op 0 (v 1) .zero (v 2))), .popc (bad (ru 2) (op 0 (v 1) (v 2) no)), .dadd (bad (ru 1) (op 0 (d 1) (d 2) (d 3))),
    .dadd (bad cP0 (op 0 (d 1) (d 2) (d 3))), .hitch (bad cP0 (op 0 no no no)), .rep (bad cP0 (op 0 no (.imm 1) no)),
    .dend (bad { c7 with yld := 1 } (op 0 no no no)), .bra { opl 0 0 .zero 1 with sid := 1 }, .dbra { opl 0 0 .zero 1 with ctl := cP0 }]
    = true := by decide +kernel

theorem test_ill_operands : ill [
    .iadd (op 0 (.vreg 1 (.rot 1)) (v 2) (v 3)), .iadd (op 0 (.imm 1) (v 2) (v 3)), .iadd (op 0 (.pred 1) (v 2) (v 3)),
    .iadd (op 0 (v 1) (.vreg 2 (.mir 0)) (v 3)), .iadd (op 0 (v 1) (.vreg 2 (.mir 6)) (v 3)), .iadd (op 0 (v 1) (v 2) (.vreg 3 (.bcs 4))),
    .iadd (op 0 (v 1) (.dreg 2) (v 3)), .iadd (op 0 (v 1) (v 2) (.slot 3)), .isetp (op 0 (v 1) (v 2) (v 3)), .sel (op 0 (v 1) (.pred 2) (v 3)),
    .plop (op 0 (.pred 1) (v 2) (.pred 3)), .xset (op 0 (v 1) (v 2) no), .xwin (op 0 (.xreg 1) (.imm 256) (.imm 256)),
    .xwin (op 0 (.xreg 1) (.imm 0) (.imm 257)), .rep (op 0 no (.imm 65) (.imm 0)), .rep (op 0 no (.imm 1) (.imm 256)),
    .rep (op 0 no (.imm 1) (.imm 0xFF00)), .dqpop (op 0 (v 1) no no), .qnt48 (op 0 (.vidx 1 0 .id) (v 2) no), .brx (op 0 no (v 1) no),
    .mov (op 0 (.xreg 1) (v 2) no), .rfirst (op 0 (v 1) (v 2) no), .racc (op 1 no no (.imm 1)), .racc (op 0 no no (v 1)),
    .idot4 (op 4 (v 1) (v 2) (.imm 256)), .dadd (op 0 (v 1) (d 2) (d 3)), .dadd (op 0 (.imm 1) (d 2) (d 3)), .dadd (op 0 (d 1) (v 2) (d 3)),
    .dret (op 0 no (.imm 4) no)] = true := by decide +kernel

theorem test_ill_variants : ill [
    .iadd (op 2 (v 1) (v 2) (v 3)), .iadd (op 0x80 (v 1) (v 2) (v 3)), .iadd (op 0x10 (v 1) (v 2) (v 3)), .imulh (op 0x40 (v 1) (v 2) (v 3)),
    .iadd (opx 0 1 (v 1) (v 2) (v 3)), .isetp (op 0x60 (.pred 1) (v 2) (v 3)), .fadd (op 0 (v 1) (v 2) (v 3)), .fadd (op 0x42 (v 1) (v 2) (v 3)),
    .fadd (opx 2 16 (v 1) (v 2) (v 3)), .fma (opx 2 32 (v 1) (v 2) (v 3)), .fmin (op 0x12 (v 1) (v 2) (v 3)), .fclass (op 0x12 (v 1) (v 2) no),
    .frnd (opx 2 2 (v 1) (v 2) no), .fscale (opx 2 8 (v 1) (v 2) (v 3)), .hadd2 (op 2 (v 1) (v 2) (v 3)), .fsetp (op 0x82 (.pred 1) (v 2) (v 3)),
    .cvt (opx 2 2 (v 1) (v 2) no), .cvt (opx 2 11 (v 1) (v 2) no), .cvt (opx 11 2 (v 1) (v 2) no), .cvt (opx 0x42 0 (v 1) (v 2) no),
    .sread (op 0 (v 1) (.imm 0x1A) no), .sread (op 0 (v 1) (.imm 0x84) no), .sread (op 0 (v 1) (.imm 0x100) no), .sreadClr (op 1 (v 1) (.imm 0x13) no),
    .vote (op 8 (.pred 1) (.pred 2) no), .vote (op 3 (.pred 1) (.pred 2) no), .vote (op 0 (v 1) (.pred 2) no), .wred (opx 0 6 (v 1) (v 2) no),
    .wred (opx 2 3 (v 1) (v 2) no), .wred (op 3 (v 1) (v 2) no), .wscan (op 0x40 (v 1) (v 2) no), .plop (op 16 (.pred 1) (.pred 2) (.pred 3)),
    .sel (opx 0 16 (v 1) (v 2) (v 3)), .movi (opl 1 0 (v 1) 0), .call (opl 0 1 .zero 0), .call (opl 0 256 .zero 0), .bra (opl 0 0 (v 1) 0),
    .bar (op 0 no (.imm 16) no), .role (op 0 no (.imm 4) no), .fbp (op 0 no (.imm 256) no), .racc (op 3 no no no)] = true := by decide +kernel

theorem test_ill_memory : ill [
    .ld (op 0x0D (v 1) (v 2) no), .ld (op 0x24 (v 1) (v 2) no), .ld (opx 4 3 (v 1) (v 2) no), .ld (opx 4 8 (v 1) (v 2) no), .ld (op 5 (v 1) (v 2) no),
    .ld (op 6 (v 2) (v 2) no), .ld (op 4 (v 1) (v 3) no), .ld (op 4 (v 1) (.vidx 1 0 .id) no), .ld (op 4 .zero (v 2) no), .lds (op 0x84 (v 1) (v 2) no),
    .lds (opx 4 1 (v 1) (v 2) no), .lds (op 4 (v 1) (.imm 2) no), .atom (op 0 (v 1) (v 2) no), .atom (op 0x14 (v 1) (v 2) no),
    .atom (opx 4 0x80 (v 1) (v 2) no), .atom (opx 4 0x38 (v 1) (v 2) no), .atom (opx 4 0x60 (v 1) (v 2) no), .atom (opx 5 0x40 (v 2) (v 2) no),
    .red (opx 4 0x30 (v 1) (v 2) no), .fence (op 0x80 no no (.imm 0)), .fence (op 0xA0 no no (v 1)), .fencex (op 0xA0 no (.imm 0) (.imm 1)),
    .fencex { op 0xA0 no (.imm 1) (.imm 1) with sid := 1 }, .pref (op 2 .zero (v 2) no), .pref (op 0 (v 1) (v 2) no),
    .dld (op 6 (d 1) (d 2) (d 3)), .dld (op 4 (d 1) (.imm 2) (d 3)), .dlds (op 0x84 (d 1) (d 2) (d 3)), .datom (opx 4 0x38 (d 31) (d 2) (d 3)),
    .datom (opx 11 0x48 (d 1) (d 2) (d 3)), .datom (op 0 (d 1) (d 2) (d 3))] = true := by decide +kernel

theorem test_ill_driver : ill [
    .dadd (op 1 (d 1) (d 2) (d 3)), .dmulh (op 2 (d 1) (d 2) (d 3)), .ddiv (op 4 (d 1) (d 2) (d 3)), .dset (op 0x60 (d 1) (d 2) (d 3)),
    .dset (op 2 (d 1) (d 2) (d 3)), .dsel (opx 0 32 (d 1) (d 2) (d 3)), .dmovi (opl 3 0 (d 1) 0), .dbra (opl 0 0x60 .zero 0),
    .dbra (opl 0 1 .zero 0), .dcall (opl 0 32 .zero 0), .dhash (op 1 (d 1) (d 2) (d 3)), .dbit (op 0 (d 1) (d 2) (d 3)), .dbar (op 0 no (.imm 16) no),
    .mma (op 3 (.tile 0) (d 1) (d 2)), .mma (op 0 (d 0) (d 1) (d 2)), .mmag (op 4 (.tile 0) (d 1) (d 2)), .scacc (op 0 (.tile 1) (.tile 1) (d 2)),
    .drain (op 2 (d 1) (.tile 1) (d 2)), .drain (op 0 (d 1) (.tile 1) .zero), .attn (op 0 (.tile 0) (d 30) (d 1)), .atmerge (op 0 (.tile 1) (.tile 1) no),
    .copy (op 4 (d 1) (d 2) (d 3)), .copy (op 0 (d 1) (d 2) (d 31)), .copy (op 0x43 (d 1) (d 2) (d 3)), .copyx (op 2 (d 1) (d 2) (d 3)),
    .bfence (op 0 no (.imm 16) no), .evpop (op 2 (d 1) no no), .kvfindRef (op 0 (d 1) (d 2) (d 3)), .kvins (op 0 (d 1) (d 2) (d 30)),
    .kvapp (opx 0 1 (d 1) (d 2) (d 3)), .wsref (op 0 (d 1) (.imm 256) no), .wsref (op 0 .zero (.imm 1) no), .objnew (op 4 (.slot 0) (d 1) (d 2)),
    .objhand (op 1 no (.slot 0) (d 31)), .relay (op 0 no (d 30) no), .swrite (op 0 no (.imm 5) (d 1)), .rtt (op 0 (v 1) (d 1) (d 2)),
    .tlbinvVf (op 0 (d 1) (d 0) (d 2)), .tlbinvVf (op 1 (d 1) no (d 2)), .tlbinvAll (op 2 (d 1) no no), .l2opVfwb (op 2 (d 1) (d 2) (d 0)),
    .l2opVfwb (op 3 (d 1) (d 2) no), .dld (op 0x84 (d 1) (d 2) .zero), .dsts (op 0x03 (d 1) (d 2) .zero), .gateNow (op 1 (d 1) (d 2) no), .halt (op 0 (d 1) (d 2) (d 3))] = true := by
  decide +kernel

theorem test_ill_words : ([0x0000_0000_0000_0000_0007_0018, 0x0000_0000_0000_0000_0007_0070, 0x0000_0000_0000_0000_0007_00F0,
    0x0000_0000_0000_0000_0017_0000, 0x0000_003F_8000_0000_0350_0060] : List W96).all fun w => (decode w).toOption.isNone := by decide +kernel

/-! Lane words -/

theorem hyp_DecodeEncode : (Instr.iadd (op 0x40 (v 255) (.vidx 7 0x10 .id) (.imm 0x8000))).wf = true ∧
    (Instr.iadd (op 0x40 (v 255) (.vidx 7 0x10 .id) (.imm 0x8000))).canonical = true := by decide +kernel

theorem hyp_EncodeDecode : decode 0x0000_0600_0280_0100_0007_034A =
    .ok (.rep { ctl := { grd := 7, stl := 1, yld := 0, ru := 0 }, var := 3, xt := 0, sid := 0, d := .unused, a := .imm 4, b := .imm 2 }) := rfl

/-- `iadd` v1, v2, v3 in the saturating form, of the greatest number and 1. -/
def sAdd : State := warpS (vreg 2 0x7FFF_FFFF ∘ vreg 3 1)
def oAdd : Op3 := op 0x40 (v 1) (v 2) (v 3)

theorem hyp_IntegerLanes : ∃ p, intWord (.iadd oAdd) = some p ∧ (Instr.iadd oAdd).wf = true ∧ sAdd.warpRuns p.o.ctl (wIt sAdd c7) ∧
    (wIt sAdd c7).regTrap p.checked = none :=
  ⟨_, rfl, by decide, warpRuns_of (by decide +kernel), by decide +kernel⟩

theorem test_iadd_sat : (warp0 (after (.iadd oAdd) sAdd)).lane 1 31 = 0x7FFF_FFFF ∧ (warp0 (after (.iadd oAdd) sAdd)).fstat = 0x20 ∧
    (warp0 (after (.iadd oAdd) sAdd)).pcOf 31 = 12 := by decide +kernel

/-- `fadd` of 1.0 and 2^-25, whose sum rounds to 1.0 and is inexact. -/
def sFadd : State := warpS (vreg 2 0x3F80_0000 ∘ vreg 3 0x3300_0000)
def oFadd : Op3 := op 2 (v 1) (v 2) (v 3)

theorem hyp_FloatLanes : ∃ p, fltWord (.fadd oFadd) = some p ∧ (Instr.fadd oFadd).wf = true ∧ sFadd.warpRuns p.o.ctl (wIt sFadd c7) ∧
    (wIt sFadd c7).regTrap p.checked = none :=
  ⟨_, rfl, by decide, warpRuns_of (by decide +kernel), by decide +kernel⟩

theorem test_fadd_rounds : (warp0 (after (.fadd oFadd) sFadd)).lane 1 0 = 0x3F80_0000 := by decide +kernel

/-- The greatest code of E4M3, its NaN, an infinity of E5M2, the least exponent at which every F32 value is an integer, a NaN of F32. -/
theorem hyp_FloatRounding : fE4M3.isFinite 0x7E ∧ fF32.isFinite (0x3F80_0000 : W32).toNat ∧ fE4M3 ∈ formats ∧ (0x7F : Nat) < 2 ^ fE4M3.width ∧
    fE4M3.decode 0xFF = .nan ∧ fE5M2.decode 0xFC = .inf true ∧ (3 : Nat) < 4 ∧ 0 ≤ (-149 : Int) + (149 : Nat) ∧
    (f32 0x3F80_0000).times 149 ≠ 0 ∧ (0x3F80_0000 : W32).msb = false ∧ 2 ^ (149 + 149) < 2 ^ (149 + 128) * ((f32 0x3F80_0000).times 149).natAbs ∧
    f32 0x7F80_0001 = .nan ∧ (FVal.fin true 5 (-1)).times 149 + (FVal.fin false 5 (-1)).times 149 = 0 :=
  ⟨⟨by decide, false, 14, 5, by decide +kernel⟩, ⟨by decide, false, 8388608, -23, by decide +kernel⟩, by decide +kernel⟩

/-- A warp with nothing special, all registers zero. -/
def s0 : State := warpS id
def oCmp : Op3 := op 0x20 (.pred 0) (v 2) (v 3)

theorem hyp_PredicateWords : s0.warpRuns c7 (wIt s0 c7) ∧ (Instr.isetp oCmp).wf = true ∧
    (wIt s0 c7).regTrap [(1, oCmp.a, 1), (2, oCmp.b, 1)] = none ∧ (Instr.fsetp (op 0x22 (.pred 0) (v 2) (v 3))).wf = true ∧
    (Instr.plop (op 8 (.pred 0) (.pred 1) (.pred 7))).wf = true ∧ (Instr.vote (op 6 (.pred 6) (.pred 7) no)).wf = true ∧
    (op 6 (.pred 6) (.pred 7) no).var.toNat % 4 ≠ 3 :=
  ⟨warpRuns_of (by decide +kernel), by decide +kernel⟩

theorem hyp_MoveWords : s0.warpRuns c7 (wIt s0 c7) ∧ (Instr.sel (opx 0 15 (v 1) (v 2) (v 3))).wf = true ∧
    (wIt s0 c7).regTrap [(0, v 1, 1), (1, v 2, 1), (2, v 3, 1)] = none ∧ (Instr.mov (op 0 (v 1) (v 2) no)).wf = true ∧
    (v 1).isDest = true ∧ (Instr.mov (op 0 (.pred 6) (v 2) no)).wf = true ∧
    (wIt s0 c7).regTrap [(0, .pred 6, 1), (1, v 2, 1)] = none ∧ (Instr.movi (opl 0 0 (v 255) 0x8000_0000)).wf = true ∧
    (wIt s0 c7).regTrap [(0, v 255, 1)] = none :=
  ⟨warpRuns_of (by decide +kernel), by decide +kernel⟩

theorem hyp_ReductionWords : s0.warpRuns c7 (wIt s0 c7) ∧ (Instr.vote (op 7 (v 1) (.pred 7) no)).wf = true ∧
    (op 7 (v 1) (.pred 7) no).var.toNat % 4 = 3 ∧ (wIt s0 c7).regTrap [(0, v 1, 1)] = none ∧
    (Instr.wred (opx 1 5 (v 1) (v 2) no)).wf = true ∧ (wIt s0 c7).regTrap [(0, v 1, 1), (1, v 2, 1)] = none ∧
    (Instr.wscan (opx 0x82 2 (v 1) (v 2) no)).wf = true ∧ (Instr.qnt48 (op 0 (v 1) (v 254) no)).wf = true ∧
    (wIt s0 c7).regTrap [(0, v 1, 1), (1, v 254, 2)] = none :=
  ⟨warpRuns_of (by decide +kernel), by decide +kernel⟩

theorem test_wred_add : (warp0 (after (.wred (opx 1 0 (v 1) (v 2) no)) (warpS (vreg 2 3)))).lane 1 31 = 96 := by decide +kernel
theorem test_wscan_ex : (warp0 (after (.wscan (opx 0x81 0 (v 1) (v 2) no)) (warpS (vreg 2 3)))).lane 1 31 = 93 := by decide +kernel

theorem hyp_SpecialReads : s0.warpRuns c7 (wIt s0 c7) ∧ (wIt s0 c7).regTrap [(0, v 1, 1)] = none ∧
    (op 0 (v 1) (.imm 0x19) no).a = .imm 0x19 ∧ (0x19 : BitVec 16).toNat < 0x80 ∧ (Instr.sread (op 0 (v 1) (.imm 0x19) no)).wf = true ∧
    (Instr.sreadClr (op 1 (v 1) (.imm 0x14) no)).wf = true :=
  ⟨warpRuns_of (by decide +kernel), by decide +kernel⟩

theorem hyp_SpecialReads_priv : (op 0 (v 1) (.imm 0x80) no).a = .imm 0x80 ∧ 0x80 ≤ (0x80 : BitVec 16).toNat ∧
    (Instr.sread (op 0 (v 1) (.imm 0x80) no)).wf = true ∧ (wIt s0 c7).act ≠ 0 := by decide +kernel

theorem hyp_IndexWords : s0.warpRuns c7 (wIt s0 c7) ∧ (op 0 (.xreg 7) (v 2) no).d = .xreg 7 ∧
    (Instr.xset (op 0 (.xreg 7) (v 2) no)).wf = true ∧ (Instr.xadd (op 0 (.xreg 7) (v 2) no)).wf = true ∧
    (wIt s0 c7).regTrap [(1, v 2, 1)] = none ∧ (Instr.xwin (op 0 (.xreg 7) (.imm 255) (.imm 256))).wf = true :=
  ⟨warpRuns_of (by decide +kernel), by decide +kernel⟩

theorem hyp_RepAndNop : s0.warpRuns c7 (wIt s0 c7) ∧ (wIt s0 c7).wp.rep.active = false ∧ (Instr.nop (op 0 no no no)).wf = true ∧
    (Instr.rep (op 7 no (.imm 64) (.imm 0xFF01))).wf = true ∧ (64 : BitVec 16) ≠ 0 ∧
    (Instr.rep (op 7 no (.imm 0) (.imm 255))).wf = true :=
  ⟨warpRuns_of (by decide +kernel), by decide +kernel⟩

theorem test_rep : (warp0 (after (.rep (op 3 no (.imm 4) (.imm 0xFFFF))) s0)).rep = ⟨true, 4, 4, -1, 3, 0⟩ ∧
    (warp0 (after (.rep (op 3 no (.imm 0) (.imm 1))) s0)).pcOf 5 = 24 := by decide +kernel

theorem hyp_GuardsAndTimedNoOps : warpCtl (.exit { op 0 no no no with ctl := cF }) = some cF ∧ cF.grd = 0xF ∧
    s0.warpIssue cF = some (wIt s0 cF) ∧ (wIt s0 cF).settled = true ∧ (wIt s0 cF).legState ≠ .racc ∧ (wIt s0 cF).wp.met = false := by
  refine ⟨rfl, rfl, ?_, by decide +kernel⟩
  exact Option.some_get (show (s0.warpIssue cF).isSome = true by decide +kernel) ▸ rfl

theorem hyp_OperandsAndBounds : s0.warpRuns c7 (wIt s0 c7) ∧ (wIt s0 c7).wp.rep.active = false := 
  ⟨warpRuns_of (by decide +kernel), by decide +kernel⟩

/-- The warp has declared four registers only. -/
def s4 : State := warpS (onWarp fun w => { w with v := w.v.take 4, count := 4 })

theorem hyp_OperandsAndBounds_reg : ∃ p, intWord (.iadd (op 0 (v 4) (v 9) (v 3))) = some p ∧ (Instr.iadd (op 0 (v 4) (v 9) (v 3))).wf = true ∧
    s4.warpRuns p.o.ctl (wIt s4 c7) ∧ (wIt s4 c7).regTrap p.checked = some { cls := .reg, x := 4 } :=
  ⟨_, rfl, by decide, warpRuns_of (by decide +kernel), by decide +kernel⟩

/-- The third of four repetitions, with A selected and the stride -1. -/
def sRep : State := warpS (onWarp fun w => { w with rep := ⟨true, 2, 4, -1, 2, 0⟩ })

theorem hyp_OperandsAndBounds_rep : sRep.warpRuns c7 (wIt sRep c7) ∧ (wIt sRep c7).wp.rep.active = true ∧
    (wIt sRep c7).wp.rep.mask.getLsbD 1 = true ∧ ((2 : BitVec 8).toNat : Int) +
      (((wIt sRep c7).wp.rep.count - (wIt sRep c7).wp.rep.left : Nat) : Int) * (wIt sRep c7).wp.rep.stride = (0 : Nat) ∧
    (((wIt sRep c7).wp.xlane 7 31).toNat : Int) + (15 : BitVec 5).toInt = (15 : Nat) :=
  ⟨warpRuns_of (by decide +kernel), by decide +kernel⟩

/-- The window of x7 is v10 to v20, and its lanes hold 11: the offset -1 is in the window, -2 below it, and 9 at its end. -/
def sWin : State := warpS (onWarp fun w => { w with x := w.x.set 7 (List.replicate 32 11), win := w.win.set 7 (10, 20) })

theorem hyp_OperandsAndBounds_window : sWin.warpRuns c7 (wIt sWin c7) ∧ (∀ L, L < 32 → Xbar.id.lane (wIt sWin c7).act L < 32) ∧
    (wIt sWin c7).regTrap [(1, .vidx 7 (BitVec.ofInt 5 (-1)) .id, 1)] = none ∧
    (wIt sWin c7).regTrap [(1, .vidx 7 (BitVec.ofInt 5 (-2)) .id, 1)] ≠ none ∧
    (wIt sWin c7).regTrap [(1, .vidx 7 8 .id, 1)] = none ∧ (wIt sWin c7).regTrap [(1, .vidx 7 8 .id, 2)] ≠ none :=
  ⟨warpRuns_of (by decide +kernel), by decide +kernel⟩

/-! Memory words of a warp -/

/-- `ld` of I16 at v2, v3 plus an immediate; the warp's registers are zero, so every lane names the first bytes of the page. -/
def oLd : Op3 := op 0x82 (v 1) (v 2) (.imm 8)
def lanes8 : List LaneAt := (List.range 32).map fun L => { lane := L, ea := 8, pa := Config.hostBase + 8 }

theorem hyp_FormatsAndLaneTraps : (0 : Nat) < 2 ∧ (wIt s0 c7).globalLanes oLd 2 .read = .ok lanes8 :=
  ⟨by decide, ok_of (by decide +kernel)⟩

/-- Lane 0 is aligned, lane 1 is not. -/
def sOdd : State := warpS (onWarp fun w => { w with v := w.v.set 2 (0 :: List.replicate 31 1) })

theorem hyp_FormatsAndLaneTraps_align : laneBit (wIt sOdd c7).act 1 = true ∧ (wIt sOdd c7).gaddr oLd 1 % 2 ≠ 0 ∧
    ∀ M, M < 1 → laneBit (wIt sOdd c7).act M = true → (wIt sOdd c7).gaddr oLd M % 2 = 0 := by decide +kernel

/-- Lane 31 names a page without a translation. -/
def sFar : State := warpS (onWarp fun w => { w with v := w.v.set 2 (List.replicate 31 0 ++ [0x10000]) })

/-- How an address fails, if it does. -/
def failed {α : Type} : Except XErr α → Option XErr
  | .ok _ => none
  | .error e => some e

theorem hyp_FormatsAndLaneTraps_addr : laneBit (wIt sFar c7).act 31 = true ∧
    (∀ M, M < 32 → laneBit (wIt sFar c7).act M = true → (wIt sFar c7).gaddr oLd M % 2 = 0) ∧
    failed ((wIt sFar c7).s.translate 0 0 ((wIt sFar c7).gaddr oLd 31) .read) = some .addr ∧
    ∀ M, M < 31 → laneBit (wIt sFar c7).act M = true →
      failed ((wIt sFar c7).s.translate 0 0 ((wIt sFar c7).gaddr oLd M) .read) ≠ some .addr := by decide +kernel

/-- `lds` of U32 at v2 plus an immediate, and of slot 0, where an object is bound. -/
def oLds : Op3 := op 0x04 (v 1) (v 2) (.imm 4)
def oLdo : Op3 := op 0x04 (v 1) (.slot 0) (.imm 4)
def sObj : State := warpS fun g => { g with slots := g.slots.set 0 (.bound 3 4096 64 false) }
def lanes4 (b : Nat) : List LaneAt := (List.range 32).map fun L => { lane := L, ea := 4, pa := b + 4 }

theorem hyp_LaneAddresses : (wIt s0 c7).scrLanes oLds (fmtBytes oLds.typ) false = .ok (lanes4 0) ∧ oLds.a.isSlot = false ∧
    (wIt sObj c7).scrLanes oLdo (fmtBytes oLdo.typ) false = .ok (lanes4 4096) ∧ oLdo.a = .slot 0 ∧
    (wIt sObj c7).wg.slots.getD 0 .empty = .bound 3 4096 64 false :=
  ⟨ok_of (by decide +kernel), rfl, ok_of (by decide +kernel), rfl, by decide +kernel⟩

theorem hyp_WarpLoads : s0.Mem ∧ s0.atRest ∧ s0.warpRuns oLd.ctl (wIt s0 c7) ∧ (wIt s0 c7).plain ∧ (Instr.ld oLd).wf = true ∧
    (wIt s0 c7).memReg oLd (fmtRegs oLd.typ) 2 = none ∧ (wIt s0 c7).globalLanes oLd (fmtBytes oLd.typ) .read = .ok lanes8 ∧
    s0.frameHazards = [] ∧ ∀ a ∈ lanes8, (wIt s0 c7).s.holder 0 (lineOf a.pa) = none ∧
      (wIt s0 c7).s.accPoison ((wIt s0 c7).access oLd) (a.bytes (fmtBytes oLd.typ)) = false :=
  ⟨mem_of (by decide +kernel), rest_of (by decide +kernel), warpRuns_of (by decide +kernel), by show (wIt s0 c7).specLeg = none; rfl, by decide, by decide +kernel,
   ok_of (by decide +kernel), by decide +kernel⟩

theorem hyp_WarpLoads_scratch : s0.Mem ∧ s0.atRest ∧ s0.warpRuns oLds.ctl (wIt s0 c7) ∧ (wIt s0 c7).plain ∧ (Instr.lds oLds).wf = true ∧
    (wIt s0 c7).memReg oLds (fmtRegs oLds.typ) 1 = none ∧
    (wIt s0 c7).scrLanes oLds (fmtBytes oLds.typ) false = .ok (lanes4 0) ∧ (wIt s0 c7).s.hazardsOf 0 = [] ∧ (s0.core 0).badWords = [] ∧
    (s0.core 0).smear = [] :=
  ⟨mem_of (by decide +kernel), rest_of (by decide +kernel), warpRuns_of (by decide +kernel), by show (wIt s0 c7).specLeg = none; rfl, by decide, by decide +kernel,
   ok_of (by decide +kernel), by decide +kernel⟩

theorem test_ld_i16 : (warp0 (after (.ld oLd) { s0 with mem := s0.mem.writeList (Config.hostBase + 8) [0xFE, 0xFF] })).lane 1 31
    = 0xFFFF_FFFE := by decide +kernel

/-- `st` of U16, and `sts` of U32, of v1. -/
def oSt : Op3 := op 0x83 (v 1) (v 2) (.imm 8)
def oSts : Op3 := op 0x04 (v 1) (v 2) (.imm 4)

theorem hyp_WarpStores : (Instr.st oSt).wf = true ∧ (wIt s0 c7).memReg oSt (fmtRegs oSt.typ) 2 = none ∧
    (wIt s0 c7).globalLanes oSt (fmtBytes oSt.typ) .write = .ok lanes8 ∧ (∀ a ∈ lanes8, (wIt s0 c7).s.holder 0 (lineOf a.pa) = none) ∧
    ¬ s0.tracked 0 0 ∧ (Instr.sts oSts).wf = true ∧ (wIt s0 c7).memReg oSts (fmtRegs oSts.typ) 1 = none ∧
    (wIt s0 c7).scrLanes oSts (fmtBytes oSts.typ) true = .ok (lanes4 0) :=
  ⟨by decide, by decide +kernel, ok_of (by decide +kernel), by decide +kernel, fun h => absurd h.1 (by decide +kernel), by decide,
   by decide +kernel, ok_of (by decide +kernel)⟩

/-- v1 holds the lane's number in each lane. -/
def sIds : State := warpS (onWarp fun w => { w with v := w.v.set 1 ((List.range 32).map (BitVec.ofNat 32)) })

theorem test_st_highest_lane : ((after (.st oSt) sIds).mem.bytes (Config.hostBase + 8) 2) = [31, 0] := by decide +kernel
theorem test_sts_highest_lane : (after (.sts oSts) sIds).scr 0 4 = 31 := by decide +kernel

/-- `atom` and `red` of add on U32 at device scope, and at warp scope with one lane active; `atoms` of cas. -/
def oAtom : Op3 := opx 0x84 0 (v 1) (v 2) (.imm 8)
def oAtomW : Op3 := opx 0x04 0 (v 1) (v 2) (.imm 8)
def oCas : Op3 := opx 0x04 0x38 (v 4) (v 2) (.imm 4)
def sOne : State := warpS (onWarp fun w => { w with p := w.p.set 0 0x8000_0000 })
def lane31 : LaneAt := { lane := 31, ea := 8, pa := Config.hostBase + 8 }

theorem hyp_WarpAtomics : (wIt s0 c7).memReg oAtom (atomRegs oAtom.aop oAtom.typ) 2 = none ∧
    (wIt s0 c7).globalLanes oAtom (fmtBytes oAtom.typ) .rw = .ok lanes8 ∧ 2 ≤ oAtom.scope ∧
    (∀ a ∈ lanes8, (wIt s0 c7).s.holder 0 (lineOf a.pa) = none ∧
      (wIt s0 c7).s.accPoison ((wIt s0 c7).access oAtom) (a.bytes (fmtBytes oAtom.typ)) = false) ∧
    s0.offFrames 0 (lanes8.map (·.bytes (fmtBytes oAtom.typ))) ∧
    (Instr.atom oAtom).wf = true ∧ (Instr.red oAtom).wf = true ∧ (Instr.atoms oCas).wf = true ∧
    (wIt s0 c7).memReg oCas (atomRegs oCas.aop oCas.typ) 1 = none ∧
    (wIt s0 c7).scrLanes oCas (fmtBytes oCas.typ) true = .ok (lanes4 0) :=
  ⟨by decide +kernel, ok_of (by decide +kernel), by decide, by decide +kernel, ⟨by decide +kernel, .inr (.inl (by decide +kernel))⟩,
   by decide, by decide, by decide, by decide +kernel, ok_of (by decide +kernel)⟩

theorem hyp_WarpAtomics_table : ((64 : Nat) = 32 ∨ (64 : Nat) = 64) ∧ 2 ^ 64 - 1 < 2 ^ 64 ∧ 2 ^ 32 - 1 < 2 ^ 32 := by decide

theorem hyp_WarpAtomics_narrow : sOne.Mem ∧ sOne.atRest ∧ sOne.warpRuns { oAtomW with ctl := cP0 }.ctl (wIt sOne cP0) ∧ (wIt sOne cP0).plain ∧
    oAtomW.scope < 2 ∧ (wIt sOne cP0).memReg { oAtomW with ctl := cP0 } (atomRegs oAtomW.aop oAtomW.typ) 2 = none ∧
    (wIt sOne cP0).globalLanes { oAtomW with ctl := cP0 } (fmtBytes oAtomW.typ) .rw = .ok [lane31] ∧
    (wIt sOne cP0).s.holder 0 (lineOf lane31.pa) = none ∧
    (wIt sOne cP0).s.accPoison ((wIt sOne cP0).access { oAtomW with ctl := cP0 }) (lane31.bytes (fmtBytes oAtomW.typ)) = false ∧
    sOne.frameHazards = [] ∧ sOne.ruined = [] ∧
    (Instr.atom { oAtomW with ctl := cP0 }).wf = true ∧ (Instr.red { oAtomW with ctl := cP0 }).wf = true :=
  ⟨mem_of (by decide +kernel), rest_of (by decide +kernel), warpRuns_of (by decide +kernel), by show (wIt sOne cP0).specLeg = none; rfl, by decide, by decide +kernel,
   ok_of (by decide +kernel), by decide +kernel⟩

theorem test_atom_add : ((after (.red oAtom) (warpS (vreg 1 2))).mem.bytes (Config.hostBase + 8) 4) = [64, 0, 0, 0] ∧
    (warp0 (after (.atom oAtom) (warpS (vreg 1 2)))).lane 1 31 = 62 := by decide +kernel

/-! Relays -/

/-- A relay of width 1 or 2, with carry register v8, in which warp 0 stands at a position in a state. -/
def relay2 (width base : Nat) (st : LegState) (legs : List Leg) : Relay :=
  { word := BitVec.ofNat 64 (2 ^ 35 + 8 * 256 + 16 + width), body := 0, guess := 0, base := base, done := 0, rcarry := [], exit := false,
    begun := true, bodies := true, legs := legs.map fun l => { l with state := st }, appends := [], undo := [], joins := [] }
def sLeg (st : LegState) : State := warpS fun g => { g with relay := some (relay2 1 0 st [freshLeg]) }
/-- Warp 0 of two is at position 1. -/
def sSpec : State := warpS fun g =>
  { g with relay := some (relay2 2 1 .body [freshLeg, freshLeg]), warps := g.warps ++ g.warps }

theorem hyp_SpeculativeStores : sSpec.warpRuns oSt.ctl (wIt sSpec c7) ∧ (Instr.st oSt).wf = true ∧
    (wIt sSpec c7).specLeg = some (relay2 2 1 .body [freshLeg, freshLeg], 1) ∧ 1 < (relay2 2 1 .body [freshLeg, freshLeg]).legs.length ∧
    (wIt sSpec c7).memReg oSt (fmtRegs oSt.typ) 2 = none ∧ (wIt sSpec c7).globalLanes oSt (fmtBytes oSt.typ) .write = .ok lanes8 ∧
    (wIt sSpec c7).act ≠ 0 ∧ ¬ (oSt.rnd = 1 ∧ 2 ≤ oSt.scope) ∧
    (((relay2 2 1 .body [freshLeg, freshLeg]).leg 1).buf.flatMap (fun b => taggedLines b.scratch (b.bytes.map (·.1))) ++
      taggedLines false ((lanes8.map fun a => (a.bytes 2).zip
        (leBytes 2 (storeNat oSt.typ fun j => (wIt sSpec c7).src 0 oSt.d .raw j a.lane).1)).flatten.map (·.1))).eraseDups.length ≤ 64 :=
  ⟨warpRuns_of (by decide +kernel), by decide, by decide +kernel, by decide, by decide +kernel, ok_of (by decide +kernel),
   by decide +kernel, by decide, by decide +kernel⟩

def oFence : Op3 := op 0xA0 no no (.imm 0xFFFF)

theorem hyp_FencesAndHints : s0.Mem ∧ s0.atRest ∧ s0.warpRuns c7 (wIt s0 c7) ∧ (wIt s0 c7).plain ∧ (Instr.fence oFence).wf = true ∧
    (wIt s0 c7).act ≠ 0 ∧ 2 ≤ oFence.scope ∧ (Instr.fencex (op 0xA0 no (.imm 1) (.imm 0xFFFF))).wf = true ∧
    (wIt s0 c7).regTrap [(1, v 254, 2), (2, .imm 0, 1)] = none ∧ (Instr.pref (op 1 .zero (v 254) (.imm 0))).wf = true ∧
    (Instr.cctl (op 1 .zero (v 254) (.imm 0))).wf = true ∧ (wIt s4 c7).regTrap [(1, v 254, 2), (2, .imm 0, 1)] ≠ none :=
  ⟨mem_of (by decide +kernel), rest_of (by decide +kernel), warpRuns_of (by decide +kernel), by show (wIt s0 c7).specLeg = none; rfl, by decide +kernel⟩

/-- One entry waits in the decision queue. -/
def sDq : State := warpS fun g => { g with dq := [0x1_0000_0002], dqTail := 1 }
def oPop : Op3 := op 0 (v 254) no no

theorem hyp_QueuePop : sDq.warpRuns oPop.ctl (wIt sDq c7) ∧ (Instr.dqpop oPop).wf = true ∧ (wIt sDq c7).plain ∧
    (wIt sDq c7).regTrap [(0, oPop.d, 2)] = none ∧ (wIt sDq c7).act ≠ 0 ∧ (wIt sDq c7).wp.head ≠ (wIt sDq c7).wg.dqTail ∧
    (wIt sDq c7).wg.dq[(wIt sDq c7).wp.head - (wIt sDq c7).wg.dqFirst]? = some 0x1_0000_0002 :=
  ⟨warpRuns_of (by decide +kernel), by decide, by show (wIt sDq c7).specLeg = none; rfl, by decide +kernel⟩

theorem hyp_QueuePop_empty : s0.warpRuns oPop.ctl (wIt s0 c7) ∧ (wIt s0 c7).plain ∧ (wIt s0 c7).regTrap [(0, oPop.d, 2)] = none ∧
    (wIt s0 c7).act ≠ 0 ∧ (wIt s0 c7).wp.head = (wIt s0 c7).wg.dqTail :=
  ⟨warpRuns_of (by decide +kernel), by show (wIt s0 c7).specLeg = none; rfl, by decide +kernel⟩

theorem test_dqpop : (warp0 (after (.dqpop oPop) sDq)).lane 254 0 = 2 ∧ (warp0 (after (.dqpop oPop) sDq)).lane 255 31 = 1 := by
  decide +kernel

/-! Control words of a warp -/

theorem hyp_Branches : s0.warpRuns c7 (wIt s0 c7) ∧ (wIt s0 c7).wp.rep.active = false ∧
    (Instr.bra (opl 0 0 .zero 0xFFFF_FFFF)).wf = true ∧ (Instr.bru (opl 0 0 .zero 0xFFFF_FFFF)).wf = true ∧
    (wIt s0 c7).act = (wIt s0 c7).gang.cand ∧ (Instr.call (opl 0 254 .zero 4)).wf = true ∧
    (wIt s0 c7).regTrap [(3, .vreg (BitVec.ofNat 8 254) .id, 2)] = none ∧ (Instr.brx (op 0 no (v 2) no)).wf = true ∧
    (Instr.ret (op 0 no (v 2) no)).wf = true ∧ (wIt s0 c7).regTrap [(1, v 2, 2)] = none ∧
    ∀ L, L < 32 → laneBit (wIt s0 c7).act L = true → ((wIt s0 c7).src 1 (v 2) .raw 1 L ++ (wIt s0 c7).src 1 (v 2) .raw 0 L : W64).toNat % 4 = 0 :=
  ⟨warpRuns_of (by decide +kernel), by decide +kernel⟩

/-- The branch word diverges: lane 31 alone is active, and UNIFX is set. -/
def sDiv : State := warpS (onWarp fun w => { w with p := w.p.set 0 0x8000_0000, unifx := true })

theorem hyp_Branches_unif : sDiv.warpRuns cP0 (wIt sDiv cP0) ∧ (wIt sDiv cP0).wp.rep.active = false ∧
    (Instr.bru { opl 0 0 .zero 4 with ctl := cP0 }).wf = true ∧ (wIt sDiv cP0).act ≠ 0 ∧ (wIt sDiv cP0).act ≠ (wIt sDiv cP0).gang.cand ∧
    (wIt sDiv cP0).wp.unifx = true :=
  ⟨warpRuns_of (by decide +kernel), by decide +kernel⟩

/-- The same with UNIFX clear. -/
def sDivGo : State := warpS (onWarp fun w => { w with p := w.p.set 0 0x8000_0000 })

theorem hyp_Branches_divergent : sDivGo.warpRuns cP0 (wIt sDivGo cP0) ∧ (wIt sDivGo cP0).wp.rep.active = false ∧
    (wIt sDivGo cP0).act ≠ 0 ∧ (wIt sDivGo cP0).act ≠ (wIt sDivGo cP0).gang.cand ∧ (wIt sDivGo cP0).wp.unifx = false ∧
    laneBit (wIt sDivGo cP0).gang.cand 0 = true :=
  ⟨warpRuns_of (by decide +kernel), by decide +kernel⟩

theorem test_bru_divergent : (warp0 (after (.bru { opl 0 0 .zero 4 with ctl := cP0 }) sDivGo)).pcOf 31 = 12 ∧
    (warp0 (after (.bru { opl 0 0 .zero 4 with ctl := cP0 }) sDivGo)).fstat = 0x40 := by decide +kernel

/-- Lane 31 would branch to address 2. -/
def sBrx : State := warpS (onWarp fun w => { w with v := w.v.set 2 (List.replicate 31 4 ++ [2]) })

theorem hyp_Branches_align : sBrx.warpRuns c7 (wIt sBrx c7) ∧ laneBit (wIt sBrx c7).act 31 = true ∧
    ((wIt sBrx c7).src 1 (v 2) .raw 1 31 ++ (wIt sBrx c7).src 1 (v 2) .raw 0 31 : W64).toNat % 4 ≠ 0 ∧
    (∀ M, M < 31 → laneBit (wIt sBrx c7).act M = true →
      ((wIt sBrx c7).src 1 (v 2) .raw 1 M ++ (wIt sBrx c7).src 1 (v 2) .raw 0 M : W64).toNat % 4 = 0) ∧
    (Instr.brx (op 0 no (v 2) no)).wf = true ∧ (Instr.ret (op 0 no (v 2) no)).wf = true ∧ (wIt sBrx c7).regTrap [(1, v 2, 2)] = none :=
  ⟨warpRuns_of (by decide +kernel), by decide +kernel⟩

theorem test_call : (warp0 (after (.call (opl 0 4 .zero 4)) s0)).pcOf 31 = 48 ∧ (warp0 (after (.call (opl 0 4 .zero 4)) s0)).lane 4 31 = 12 :=
  by decide +kernel

theorem hyp_Branches_exit : s0.warpRuns c7 (wIt s0 c7) ∧ (Instr.exit (op 0 no no no)).wf = true ∧ (wIt s0 c7).act ≠ 0 ∧
    (wIt s0 c7).wg.legOf (wIt s0 c7).w = none ∧ (wIt s0 c7).wp.rep.active = false :=
  ⟨warpRuns_of (by decide +kernel), by decide, by decide +kernel, by decide +kernel, by decide +kernel⟩

theorem hyp_MeetingWordsAndBarriers : s0.warpRuns c7 (wIt s0 c7) ∧ (wIt s0 c7).gathers ∧ (Instr.hitch (op 0 no no no)).wf = true ∧
    (wIt s0 c7).plain ∧ ((wIt s0 c7).wg.bars.getD 15 default).declared = true ∧
    (wIt s0 c7).wg.hasArrived 15 (wIt s0 c7).w = false ∧ (Instr.bar (op 0 no (.imm 15) no)).wf = true ∧
    (Instr.barArv (op 1 no (.imm 15) no)).wf = true ∧ (Instr.role (op 0 no (.imm 3) no)).wf = true ∧
    ((wIt s0 c7).wg.hdr.roles.getD 3 default).decl = true ∧ (Instr.rjoin (op 0 no no no)).wf = true ∧ (wIt s0 c7).wg.relay = none :=
  ⟨warpRuns_of (by decide +kernel), by show _ ∧ _; decide +kernel, by decide, by show (wIt s0 c7).specLeg = none; rfl, by decide +kernel⟩

/-- The relay of width 1 has begun, and warp 1, which is no leg of it, is in turn; or the relay of width 2 has not. -/
def sNoLeg : State := { warpS fun g => { g with relay := some (relay2 1 0 .body [freshLeg]), warps := g.warps ++ g.warps } with
  cur := { core := 0, slot := 0, agent := .warp 1 } }
def sWillLeg : State := warpS fun g =>
  { g with relay := some { relay2 2 0 .idle [] with begun := false, bodies := false }, warps := g.warps ++ g.warps }

theorem hyp_MeetingWordsAndBarriers_relay : sNoLeg.warpRuns c7 (wIt sNoLeg c7) ∧ (wIt sNoLeg c7).gathers ∧
    (wIt sNoLeg c7).wg.relay = some (relay2 1 0 .body [freshLeg]) ∧ (wIt sNoLeg c7).wg.legOf (wIt sNoLeg c7).w = none ∧
    (relay2 1 0 .body [freshLeg]).width ≤ (wIt sNoLeg c7).w ∧ sWillLeg.warpRuns c7 (wIt sWillLeg c7) ∧ (wIt sWillLeg c7).gathers ∧
    (wIt sWillLeg c7).wg.legOf (wIt sWillLeg c7).w = none ∧ (wIt sWillLeg c7).w < (relay2 2 0 .idle []).width :=
  ⟨warpRuns_of (by decide +kernel), by show _ ∧ _; decide +kernel, by decide +kernel, by decide +kernel, by decide +kernel,
   warpRuns_of (by decide +kernel), by show _ ∧ _; decide +kernel, by decide +kernel⟩

/-- Lanes 0 to 15 wait at a word at 24, a `hitch` or another meeting word; lanes 16 to 31 issue one at 0. -/
def sHitch (h : W32) : State := warpS (onWarp fun w =>
  { w with pcs := (List.range 32).map fun L => if L < 16 then 24 else 0, leaders := [0, 0, 0, 0, 4, 4, 4, 4]
           meet := 0xFFFF, hitch := h })

theorem hyp_MeetingWordsAndBarriers_hitch : (sHitch 0xFFFF).warpRuns c7 (wIt (sHitch 0xFFFF) c7) ∧ (wIt (sHitch 0xFFFF) c7).wp.met = false ∧
    (wIt (sHitch 0xFFFF) c7).wp.rep.active = false ∧ (wIt (sHitch 0xFFFF) c7).act = 0xFFFF_0000 ∧
    (∀ L, L < 32 → laneBit (wIt (sHitch 0xFFFF) c7).wp.live L = true →
      (laneBit (wIt (sHitch 0xFFFF) c7).wp.meet L || laneBit (wIt (sHitch 0xFFFF) c7).act L) = true) ∧
    (wIt (sHitch 0xFFFF) c7).wp.pcOf 0 ≠ (wIt (sHitch 0xFFFF) c7).wp.pcOf 16 ∧ laneBit (wIt (sHitch 0xFFFF) c7).wp.live 0 = true ∧
    laneBit (wIt (sHitch 0xFFFF) c7).wp.live 16 = true ∧
    (∀ M, M < 32 → ((wIt (sHitch 0xFFFF) c7).wp.pcOf 16).toNat ≤ ((wIt (sHitch 0xFFFF) c7).wp.pcOf M).toNat) :=
  ⟨warpRuns_of (by decide +kernel), by decide +kernel⟩

theorem hyp_MeetingWordsAndBarriers_unif : (sHitch 0).warpRuns c7 (wIt (sHitch 0) c7) ∧ (wIt (sHitch 0) c7).wp.met = false ∧
    (∀ L, L < 32 → (laneBit (wIt (sHitch 0) c7).wp.hitch L ||
      (Instr.bar (op 0 no (.imm 15) no) == .hitch (op 0 no (.imm 15) no) && laneBit (wIt (sHitch 0) c7).act L)) = false) :=
  ⟨warpRuns_of (by decide +kernel), by decide +kernel⟩

/-- Warp 0, or the driver, has arrived in the phase. -/
def sAgain : State := warpS fun g => { g with bars := g.bars.modify 15 fun b => { b with arrivals := 1, arrived := 1 } }

theorem hyp_MeetingWordsAndBarriers_again : sAgain.warpRuns c7 (wIt sAgain c7) ∧ (wIt sAgain c7).gathers ∧ (wIt sAgain c7).plain ∧
    ((wIt sAgain c7).wg.bars.getD 15 default).declared = true ∧ (wIt sAgain c7).wg.hasArrived 15 (wIt sAgain c7).w = true :=
  ⟨warpRuns_of (by decide +kernel), by show _ ∧ _; decide +kernel, by show (wIt sAgain c7).specLeg = none; rfl, by decide +kernel⟩

/-- A barrier that expects two arrivals: the first counts, and the second flips it. -/
def twoBar : Barrier := { declared := true, expected := 2, arrivals := 0, phase := false, members := 0x10001, arrived := 0, leaving := 0 }
def gBar (x : Barrier) : Workgroup := { gOf (drvS id) with bars := [x] }

theorem hyp_MeetingWordsAndBarriers_arrive : (gBar twoBar).bars[0]? = some twoBar ∧ (gBar twoBar).warps.length ≤ 16 ∧
    twoBar.arrivals + 1 < twoBar.expected ∧
    (gBar { twoBar with arrivals := 1, arrived := 1 }).bars[0]? = some { twoBar with arrivals := 1, arrived := 1 } ∧
    ({ twoBar with arrivals := 1, arrived := 1 } : Barrier).arrivals + 1 = ({ twoBar with arrivals := 1, arrived := 1 } : Barrier).expected ∧
    (gBar { twoBar with arrivals := 1, arrived := 1 }).carried 0 = 0 := by decide +kernel

/-- The driver waits, and so does a warp that has arrived in the phase before. -/
def gFlip : Workgroup :=
  onWarp (fun w => { w with block := .barAgain 0 false }) (onDrv (fun r => { r with block := .bar 0 })
    { gBar { twoBar with arrivals := 1, arrived := 1 } with bars := [{ twoBar with arrivals := 1, arrived := 1 }] })

theorem hyp_MeetingWordsAndBarriers_flip : gFlip.bars[0]? = some { twoBar with arrivals := 1, arrived := 1 } ∧ gFlip.warps.length ≤ 16 ∧
    gFlip.carried 0 = BitVec.ofNat 17 (2 ^ 0) ∧ 0 < gFlip.warps.length ∧ 1 < twoBar.expected - twoBar.leaving ∧ gFlip.drv.block = .bar 0 ∧
    (gFlip.warps[0]?.map (·.block)) = some (.barAgain 0 false) ∧ (gBar twoBar).drv.block ≠ .bar 0 := by decide +kernel

theorem hyp_RelayLegWords : (sLeg .guessing).warpRuns c7 (wIt (sLeg .guessing) c7) ∧
    (wIt (sLeg .guessing) c7).wg.legOf 0 = some (relay2 1 0 .guessing [freshLeg], 0) ∧ (wIt (sLeg .guessing) c7).gathers ∧
    (Instr.rsigGuessed (op 0 no no no)).wf = true ∧ ((relay2 1 0 .guessing [freshLeg]).leg 0).state = .guessing :=
  ⟨warpRuns_of (by decide +kernel), by decide +kernel, by show _ ∧ _; decide +kernel, by decide +kernel⟩

theorem hyp_RelayLegWords_body : (sLeg .body).warpRuns c7 (wIt (sLeg .body) c7) ∧
    (wIt (sLeg .body) c7).wg.legOf 0 = some (relay2 1 0 .body [freshLeg], 0) ∧ (wIt (sLeg .body) c7).gathers ∧
    (Instr.racc (op 1 no no (v 3))).wf = true ∧ ((relay2 1 0 .body [freshLeg]).leg 0).state = .body ∧
    (wIt (sLeg .body) c7).regTrap [(2, v 3, 1)] = none ∧ (Instr.rsigExit (op 1 no no no)).wf = true ∧ (wIt (sLeg .body) c7).act ≠ 0 :=
  ⟨warpRuns_of (by decide +kernel), by decide +kernel, by show _ ∧ _; decide +kernel, by decide +kernel⟩

theorem hyp_RelayLegWords_rfirst : s0.warpRuns c7 (wIt s0 c7) ∧ (Instr.rfirst (op 0 (v 1) (.pred 7) no)).wf = true ∧
    (wIt s0 c7).gathers ∧ (wIt s0 c7).wg.legOf (wIt s0 c7).w = none ∧ (wIt s0 c7).regTrap [(0, v 1, 1)] = none :=
  ⟨warpRuns_of (by decide +kernel), by decide, by show _ ∧ _; decide +kernel, by decide +kernel⟩

/-- One flashback point. -/
def sFb : State := warpS fun g => { g with hdr := { g.hdr with fbn := 1 } }
/-- Half of the lanes stand at another word. -/
def sHalf : State := warpS fun g =>
  onWarp (fun w => { w with pcs := (List.range 32).map fun L => if L < 16 then 0 else 24 }) { g with hdr := { g.hdr with fbn := 1 } }

theorem hyp_PointsYieldsTraps : sFb.warpRuns c7 (wIt sFb c7) ∧ (Instr.fbp (op 0 no (.imm 0) no)).wf = true ∧
    immNat (.imm 0) < (wIt sFb c7).wg.hdr.fbn ∧ (wIt sFb c7).act = (wIt sFb c7).wp.live ∧ (Instr.yield (op 0 no no no)).wf = true ∧
    (Instr.trap (op 0 no (.imm 0xFFFF) no)).wf = true ∧ (wIt sFb c7).act ≠ 0 ∧ sHalf.warpRuns c7 (wIt sHalf c7) ∧
    immNat (.imm 0) < (wIt sHalf c7).wg.hdr.fbn ∧ (wIt sHalf c7).act ≠ (wIt sHalf c7).wp.live :=
  ⟨warpRuns_of (by decide +kernel), by decide, by decide +kernel, by decide +kernel, by decide, by decide, by decide +kernel,
   warpRuns_of (by decide +kernel), by decide +kernel, by decide +kernel⟩

def launch0 : Launch :=
  { vf := 0, lid := 1, image := 0, region := 0, parent := none, endedAs := none, reserved := [], restarts := [], badSaves := [], begun := false }

theorem hyp_TrapEntry : s0.wg? 0 0 = some (up.openWg true) ∧ (0 : Nat) < 8 ∧ (0 : Nat) ≤ 16 ∧ (up.openWg true).warps.length ≤ 16 ∧
    s0.launchOf (up.openWg true) = some launch0 ∧ launch0.endedAs = none ∧ TrapClass.user ≠ TrapClass.eccu ∧
    (s0.vf (up.openWg true).vf).flr = false := by decide +kernel

/-- A second warp of the workgroup could issue in the cycle, or has trapped in it too. -/
def sTwo : State := warpS fun g => { g with warps := g.warps ++ g.warps.map fun x => { x with wslot := 1 } }
def userTrap : TrapInfo := { cls := .user, x := 7 }
def sTwoTraps : State := warpS fun g =>
  { g with warps := g.warps ++ g.warps, trapping := [(1, { cls := .eccu, x := 3 }), (0, userTrap)] }

theorem hyp_TrapEntry_settling : (sTwo.wg? 0 0).isSome = true ∧ ((sTwo.wg? 0 0).getD default).trapped 0 = none ∧
    sTwo.othersIssue 0 { (sTwo.wg? 0 0).getD default with trapping := ((sTwo.wg? 0 0).getD default).trapping ++ [(0, userTrap)] } = true ∧
    (up.openWg true).trapped 0 = none ∧ (up.openWg true).trapping = [] ∧
    s0.othersIssue 0 { up.openWg true with trapping := (up.openWg true).trapping ++ [(0, userTrap)] } = false ∧
    ((sTwoTraps.wg? 0 0).map (·.trapping)) = some [(1, { cls := .eccu, x := 3 }), (0, userTrap)] := by decide +kernel

theorem hyp_TrapEntry_order : let p : Nat × TrapInfo := (1, { cls := .eccu, x := 3 })
    let ts := [p, (0, userTrap)]
    p ∈ ts ∧ (ts.map (·.1)).Nodup ∧ (∀ q ∈ ts, q.1 ≤ 16) ∧ (∀ q ∈ ts, q.2.cls = .eccu → p.2.cls = .eccu) ∧
      ∀ q ∈ ts, q.2.cls = p.2.cls ∨ p.2.cls ≠ .eccu → p.1 ≤ q.1 := by decide

theorem test_trap : ((after (.trap (op 0 no (.imm 0xFFFF) no)) s0).core 0).trapq.map (·.take 4) =
    [[BitVec.ofNat 64 (10 * 2 ^ 60 + 2 ^ 40 + 1), BitVec.ofNat 64 (10 * 2 ^ 60), 0, 0xFFFF]] ∧
    ((after (.trap (op 0 no (.imm 0xFFFF) no)) s0).wg? 0 0) = none := by decide +kernel

/-! Driver words -/

def sD : State := drvS (dreg 1 7 ∘ dreg 2 0xFFFF_FFFF_FFFF_FFFE)
def oDadd : Op3 := op 0 (d 3) (d 1) (d 2)

theorem hyp_DriverArithmetic : ∃ f, drvWordOf (.dadd oDadd) = some (oDadd, f) ∧ (Instr.dadd oDadd).wf = true ∧ sD.drvRuns oDadd.ctl (dIt sD) ∧
    (Instr.dsel (opx 0 31 (d 3) (d 1) (d 2))).wf = true ∧ (Instr.dmovi (opl 2 0 (d 31) 0x8000_0000)).wf = true :=
  ⟨_, rfl, by decide, drvRuns_of (by decide +kernel), by decide, by decide⟩

theorem test_dadd : (drv0 (after (.dadd oDadd) sD)).d.getD 3 0 = 5 ∧ (drv0 (after (.dadd oDadd) sD)).pc = 12 := by decide +kernel
theorem test_ddiv_zero : (drv0 (after (.ddiv (op 0 (d 3) (d 1) (d 0))) sD)).d.getD 3 0 = 0xFFFF_FFFF_FFFF_FFFF := by decide +kernel

/-- A trap block of one word waits in the queue of the ostler's core. -/
def sTrapq : State := (ostS id).modCore 0 fun co => { co with trapq := [[5]] }

theorem hyp_DriverReads : sD.drvRuns c7 (dIt sD) ∧ (Instr.dsread (op 0 (d 1) (.imm 0x19) no)).wf = true ∧
    (op 0 (d 1) (.imm 0x19) no).a = .imm 0x19 ∧ (0x19 : BitVec 16).toNat < 0x80 ∧ (0x19 : BitVec 16) ≠ 0x81 ∧
    (Instr.dsread (op 0 (d 1) (.imm 0x80) no)).wf = true ∧ 0x80 ≤ (0x80 : BitVec 16).toNat ∧ sD.privileged = false ∧
    (dIt sD).wg.isSome = true ∧ sTrapq.drvRuns c7 (dIt sTrapq) ∧ (Instr.dsread (op 0 (d 1) (.imm 0x81) no)).wf = true ∧
    (dIt sTrapq).wg = none ∧ (sTrapq.core 0).trapq = [5] :: [] :=
  ⟨drvRuns_of (by decide +kernel), by decide, by decide, by decide, by decide, by decide, by decide, by decide +kernel, by decide +kernel,
   drvRuns_of (by decide +kernel), by decide +kernel⟩

theorem test_dsread_trapq : ((after (.dsread (op 0 (d 1) (.imm 0x81) no)) sTrapq).core 0).trapq = [] ∧
    ((after (.dsread (op 0 (d 1) (.imm 0x81) no)) sTrapq).core 0).ostler.d.getD 1 0 = 5 := by decide +kernel

def oDld : Op3 := op 0x84 (d 3) (d 4) (.imm 8)
def oDlds : Op3 := op 0x04 (d 3) (d 4) (.imm 8)

theorem hyp_DriverLoads : sD.Mem ∧ sD.atRest ∧ sD.drvRuns oDld.ctl (dIt sD) ∧ (Instr.dld oDld).wf = true ∧
    (dIt sD).reachesAt oDld (fmtBytes oDld.typ) .read (Config.hostBase + 8) ∧ (dIt sD).sound oDld (fmtBytes oDld.typ) (Config.hostBase + 8) ∧
    sD.frameHazards = [] ∧ (dIt sD).wg = some (gOf sD) ∧ (Instr.dlds oDlds).wf = true ∧
    scrGate (dIt sD) (gOf sD) oDlds false = .ok (8, 8) ∧ (dIt sD).calm (gOf sD) := by
  refine ⟨mem_of (by decide +kernel), rest_of (by decide +kernel), drvRuns_of (by decide +kernel), by decide, ⟨by decide +kernel, ok_of (by decide +kernel),
    by decide +kernel, by decide +kernel, by decide +kernel⟩, by show _ = _; decide +kernel, by decide +kernel, (wgRuns_of (c := c7) (by decide +kernel) (by decide +kernel)).2,
    by decide, ok_of (by decide +kernel), calm_of (by decide +kernel)⟩

def oDst : Op3 := op 0x83 (d 2) (d 4) (.imm 8)
def oDatom : Op3 := opx 0x85 0 (d 2) (d 4) (.imm 8)
def oDsts : Op3 := op 0x03 (d 2) (d 4) (.imm 8)

theorem hyp_DriverStores : (Instr.dst oDst).wf = true ∧ (dIt sD).reachesAt oDst (fmtBytes oDst.typ) .write (Config.hostBase + 8) ∧
    ((dIt sD).wg = none → ∀ l ∈ sD.launches, (sD.vf l.vf).flr = false) ∧ ¬ sD.tracked 0 0 ∧ (Instr.datom oDatom).wf = true ∧
    (dIt sD).reachesAt oDatom (fmtBytes oDatom.typ) .rw (Config.hostBase + 8) ∧
    (dIt sD).sound oDatom (fmtBytes oDatom.typ) (Config.hostBase + 8) ∧ sD.ruined = [] ∧ (Instr.dsts oDsts).wf = true ∧
    scrGate (dIt sD) (gOf sD) oDsts true = .ok (8, 8) :=
  ⟨by decide, ⟨by decide +kernel, ok_of (by decide +kernel), by decide +kernel, by decide +kernel, by decide +kernel⟩,
   by decide +kernel, fun h => absurd h.1 (by decide +kernel), by decide,
   ⟨by decide +kernel, ok_of (by decide +kernel), by decide +kernel, by decide +kernel, by decide +kernel⟩, by show _ = _; decide +kernel,
   by decide +kernel, by decide, ok_of (by decide +kernel)⟩

theorem test_dst : (after (.dst oDst) sD).mem.bytes (Config.hostBase + 8) 3 = [0xFE, 0xFF, 0] := by decide +kernel

/-- The driver has 16 entries in its queue, an open command that waits, and d3 = 2. -/
def sFull : State := drvS fun g => dreg 3 2
  { g with dq := List.replicate 16 0, dqTail := 16, open_ := [{ engine := 6, status := 0, data := 0, pend := .relay }] }

theorem hyp_DriverControl : sD.drvRuns c7 (dIt sD) ∧ (Instr.dbra (opl 0 0x41 .zero 4)).wf = true ∧ (Instr.dcall (opl 0 31 .zero 4)).wf = true ∧
    (Instr.dret (op 0 no (d 4) no)).wf = true ∧ ((dIt sD).src (d 4)).toNat % 4 = 0 ∧ (Instr.dfence (op 0xA0 no no (.imm 0xFFFF))).wf = true ∧
    sD.Mem ∧ sD.wgRuns c7 (dIt sD) (gOf sD) ∧ (Instr.dend (op 0 no no no)).wf = true ∧ (gOf sD).quiet (sD.core (dIt sD).core).passesRun = true ∧
    (Instr.dqpush (op 0 no (d 1) no)).wf = true ∧ (gOf sD).dq.length < 16 ∧
    ((gOf sD).bars.getD (immNat (.imm 15)) default).declared = true ∧ (gOf sD).hasArrived (immNat (.imm 15)) 16 = false ∧
    (Instr.dbar (op 0 no (.imm 15) no)).wf = true ∧ (Instr.dbarArv (op 1 no (.imm 15) no)).wf = true :=
  ⟨drvRuns_of (by decide +kernel), by decide, by decide, by decide, by decide +kernel, by decide, mem_of (by decide +kernel),
   wgRuns_of (by decide +kernel) (by decide +kernel), by decide +kernel⟩

theorem hyp_DriverControl_waits : sFull.wgRuns c7 (dIt sFull) (gOf sFull) ∧ ((dIt sFull).src (d 3)).toNat % 4 ≠ 0 ∧
    (gOf sFull).quiet (sFull.core (dIt sFull).core).passesRun = false ∧ 16 ≤ (gOf sFull).dq.length :=
  ⟨wgRuns_of (by decide +kernel) (by decide +kernel), by decide +kernel⟩

def sAgainD : State := drvS fun g => { g with bars := g.bars.modify 15 fun b => { b with arrivals := 1, arrived := 0x10000 } }

theorem hyp_DriverControl_again : sAgainD.wgRuns c7 (dIt sAgainD) (gOf sAgainD) ∧
    ((gOf sAgainD).bars.getD (immNat (.imm 15)) default).declared = true ∧ (gOf sAgainD).hasArrived (immNat (.imm 15)) 16 = true :=
  ⟨wgRuns_of (by decide +kernel) (by decide +kernel), by decide +kernel⟩

theorem test_dcall : (drv0 (after (.dcall (opl 0 31 .zero 4)) sD)).pc = 48 ∧ (drv0 (after (.dcall (opl 0 31 .zero 4)) sD)).d.getD 31 0 = 12 := by
  decide +kernel

theorem hyp_Privilege : sysOf (.halt (op 0 .zero no (.imm 0))) = some (op 0 .zero no (.imm 0)) ∧ sD.drvIssue = some (dIt sD) ∧
    (dIt sD).wg = some (gOf sD) ∧ (gOf sD).drv.priv = false ∧ s0.cur.agent = .warp 0 ∧ (s0.wg? s0.cur.core s0.cur.slot).isSome = true :=
  ⟨rfl, (drvRuns_of (c := c7) (by decide +kernel)).1, (wgRuns_of (c := c7) (by decide +kernel) (by decide +kernel)).2, by decide +kernel⟩

/-! Engine commands -/

/-- d4 is an SPD of pitch 48 at 0, d5 one of pitch 10 columns at 8192. -/
def spdOf (addr pitch : Nat) : W64 := BitVec.ofNat 64 (addr + pitch * 2 ^ 20)
def sMma : State := { drvS (dreg 4 (spdOf 0 48) ∘ dreg 5 (spdOf 8192 48)) with
  cores := (drvS (dreg 4 (spdOf 0 48) ∘ dreg 5 (spdOf 8192 48))).cores.modify 0 fun co => { co with scratch := [(0, 2), (8192, 0xFD)] } }
def oMma : Op3 := op 2 (.tile 31) (d 4) (d 5)
def oMmag : Op3 := opx 2 0 (.tile 31) (d 4) (d 5)

theorem hyp_MatrixMultiply : sMma.wgRuns oMma.ctl (dIt sMma) (gOf sMma) ∧ (dIt sMma).calm (gOf sMma) ∧
    (gOf sMma).tiles[tileNo oMma.d]? = some freshTile ∧ freshTile.wf = true ∧ colBytes 2 ≤ spdPitch ((dIt sMma).src oMma.b) ∧
    spd (gOf sMma) ((dIt sMma).src oMma.b) 96 (colBytes 2) 48 false = .at_ 8192 0 65536 ∧ freshTile.f32 = false ∧
    (∀ j, j < 96 → columnOk 2 []) ∧ (Instr.mma oMma).wf = true ∧
    spd (gOf sMma) ((dIt sMma).src oMma.a) 32 48 (spdPitch ((dIt sMma).src oMma.a)) false = .at_ 0 0 65536 :=
  ⟨wgRuns_of (by decide +kernel) (by decide +kernel), calm_of (by decide +kernel), by decide +kernel, by decide +kernel, by decide +kernel,
   at_of (by decide +kernel), rfl, fun _ _ h => absurd h (by decide), by decide, at_of (by decide +kernel)⟩

/-- Warp 0 is not gone. -/
def sMmag : State := drvS (onWarp (fun w => { w with exited := 0 }) ∘ dreg 4 (spdOf 0 48) ∘ dreg 5 (spdOf 8192 48))

theorem hyp_MatrixMultiply_gathered : ∃ x, (gOf sMmag).warps[oMmag.xt.toNat / 256]? = some x ∧ x.gone = false ∧
    oMmag.xt.toNat % 256 < x.count ∧ (Instr.mmag oMmag).wf = true ∧
    spdBase (gOf sMmag) ((dIt sMmag).src oMmag.a) false = .at_ 0 0 65536 ∧
    ∀ i, i < 32 → spdAddr ((dIt sMmag).src oMmag.a) + (x.lane (oMmag.xt.toNat % 256) i).toNat % 65536 * spdPitch ((dIt sMmag).src oMmag.a)
      + 48 ≤ 65536 :=
  ⟨(gOf sMmag).warps.getD 0 default, by decide +kernel, by decide +kernel, by decide +kernel, by decide, at_of (by decide +kernel),
   by decide +kernel⟩

theorem test_mma : ((after (.mma oMma) sMma).tile 0 0 31).cell 0 0 = BitVec.ofInt 36 (-6) := by decide +kernel

/-- Tile 1 is F32; d4 to d6 are SPDs. -/
def sTile : State := drvS fun g =>
  (dreg 4 (spdOf 0 384) ∘ dreg 5 (spdOf 32768 0) ∘ dreg 6 (spdOf 0 768)) { g with tiles := g.tiles.set 1 { freshTile with f32 := true } }

theorem hyp_TileWords : sTile.wgRuns c7 (dIt sTile) (gOf sTile) ∧ (dIt sTile).calm (gOf sTile) ∧
    (Instr.scacc (op 0 (.tile 1) (.tile 0) (d 5))).wf = true ∧ (gOf sTile).tiles[1]? = some { freshTile with f32 := true } ∧
    (gOf sTile).tiles[0]? = some freshTile ∧ spd (gOf sTile) ((dIt sTile).src (d 5)) 1 128 0 false = .at_ 32768 0 65536 ∧
    (Instr.aclr (op 1 (.tile 0) no no)).wf = true ∧ (Instr.ald (op 1 (.tile 0) (d 4) (d 5))).wf = true ∧ (d 5).isD = true ∧
    spd (gOf sTile) ((dIt sTile).src (d 5)) 1 256 0 false = .at_ 32768 0 65536 ∧
    spd (gOf sTile) ((dIt sTile).src (d 4)) 32 384 (spdPitch ((dIt sTile).src (d 4))) false = .at_ 0 0 65536 ∧
    (Instr.ald (op 0 (.tile 0) (d 6) .zero)).wf = true ∧ Opnd.zero.isD = false ∧
    spd (gOf sTile) ((dIt sTile).src (d 6)) 32 768 (spdPitch ((dIt sTile).src (d 6))) false = .at_ 0 0 65536 ∧
    (Instr.ast (op 0 (d 6) (.tile 0) .zero)).wf = true ∧ (Instr.ast (op 0 (d 4) (.tile 1) (d 5))).wf = true ∧
    spd (gOf sTile) ((dIt sTile).src (d 6)) 32 768 (spdPitch ((dIt sTile).src (d 6))) true = .at_ 0 0 65536 ∧
    spd (gOf sTile) ((dIt sTile).src (d 4)) 32 384 (spdPitch ((dIt sTile).src (d 4))) true = .at_ 0 0 65536 ∧
    spd (gOf sTile) ((dIt sTile).src (d 5)) 1 256 0 true = .at_ 32768 0 65536 :=
  ⟨wgRuns_of (by decide +kernel) (by decide +kernel), calm_of (by decide +kernel), by decide, by decide +kernel, by decide +kernel,
   at_of (by decide +kernel), by decide, by decide, by decide, at_of (by decide +kernel), at_of (by decide +kernel), by decide, by decide,
   at_of (by decide +kernel), by decide, by decide, at_of (by decide +kernel), at_of (by decide +kernel), at_of (by decide +kernel)⟩

theorem hyp_TileWords_drain : (Instr.drain (op 0 (d 4) (.tile 0) (d 6))).wf = true ∧ (Instr.drain (op 3 (d 4) (.tile 1) .zero)).wf = true ∧
    spd (gOf sTile) ((dIt sTile).src (d 4)) 32 (drainLen 0) (spdPitch ((dIt sTile).src (d 4))) true = .at_ 0 0 65536 ∧
    spd (gOf sTile) ((dIt sTile).src (d 6)) 32 2 (spdPitch ((dIt sTile).src (d 6))) true = .at_ 0 0 65536 ∧
    spd (gOf sTile) ((dIt sTile).src (d 4)) 32 (drainLen 3) (spdPitch ((dIt sTile).src (d 4))) true = .at_ 0 0 65536 :=
  ⟨by decide, by decide, at_of (by decide +kernel), at_of (by decide +kernel), at_of (by decide +kernel)⟩

/-- Tiles 0 and 1 are F32; d4 is an SPD, d7 the parameters of `attn` with COUNT 1, d9 the address of a frame of zeros. -/
def sAttn : State := drvS fun g =>
  (dreg 4 (spdOf 0 384) ∘ dreg 5 (BitVec.ofNat 64 (2 ^ 40)))
    { g with tiles := (g.tiles.set 0 { freshTile with f32 := true }).set 1 { freshTile with f32 := true } }
def oAttn : Op3 := op 0 (.tile 0) (d 4) (d 9)

theorem hyp_AttentionWords : sAttn.wgRuns c7 (dIt sAttn) (gOf sAttn) ∧ (dIt sAttn).calm (gOf sAttn) ∧
    (Instr.atmerge (op 0 (.tile 0) (.tile 1) no)).wf = true ∧ (gOf sAttn).tiles[0]? = some { freshTile with f32 := true } ∧
    (gOf sAttn).tiles[1]? = some { freshTile with f32 := true } ∧ ({ freshTile with f32 := true } : Tile).wf = true ∧
    (Instr.atnorm (op 1 (d 4) (.tile 0) no)).wf = true ∧
    spd (gOf sAttn) ((dIt sAttn).src (d 4)) 32 192 (spdPitch ((dIt sAttn).src (d 4))) true = .at_ 0 0 65536 :=
  ⟨wgRuns_of (by decide +kernel) (by decide +kernel), calm_of (by decide +kernel), by decide, by decide +kernel, by decide +kernel,
   by decide +kernel, by decide, at_of (by decide +kernel)⟩

/-- The frame that `attn` reads here: zeros. -/
def attnTouches : List Touch := touches 0 (512 + 96 * 48) .read
def attnAccess : Access := (dIt sAttn).engAccess (gOf sAttn) 2 0
def attnFrame : Frame := { bytes := ((dIt sAttn).s.touchBytes attnAccess attnTouches).map ((dIt sAttn).s.accByte attnAccess) }

theorem hyp_AttentionWords_attn : (Instr.attn oAttn).wf = true ∧ ((dIt sAttn).src (.dreg 5)).toNat / 2 ^ 32 % 4 = 0 ∧
    spd (gOf sAttn) ((dIt sAttn).src oAttn.a) 32 48 (spdPitch ((dIt sAttn).src oAttn.a)) false = .at_ 0 0 65536 ∧
    spd (gOf sAttn) ((dIt sAttn).src oAttn.a) 33 128 (spdPitch ((dIt sAttn).src oAttn.a)) false = .at_ 0 0 65536 ∧
    ((dIt sAttn).src (.dreg 5)).toNat / 2 ^ 48 = 0 ∧ ((dIt sAttn).src (.dreg 5)).toNat / 2 ^ 34 % 2 ^ 6 = 0 ∧
    ((dIt sAttn).src (.dreg 5)).toNat / 2 ^ 40 % 2 ^ 8 ≠ 0 ∧ canonical ((dIt sAttn).src oAttn.b).toNat = true ∧
    ((dIt sAttn).src oAttn.b).toNat % 64 = 0 ∧ (dIt sAttn).s.touchFail ((dIt sAttn).engAccess (gOf sAttn) 2 0) attnTouches = none ∧
    (dIt sAttn).s.touchPin ((dIt sAttn).engAccess (gOf sAttn) 2 0) attnTouches = none ∧ attnFrame.valid ≤ 48 ∧
    (∀ i, i < 32 → (sAttn.scr 0 (32 * 384 + 4 * i)).toNat ≠ 255) ∧ (∀ j, j < 48 → attnFrame.kscale j 0 ≠ 255) ∧
    ∀ c, c < 48 → attnFrame.vscale c ≠ 255 :=
  ⟨by decide, by decide +kernel, at_of (by decide +kernel), at_of (by decide +kernel), by decide +kernel⟩

theorem hyp_AttentionWords_free (f : List (Nat × Nat)) : (dIt sAttn).s.kvBusy f = false := by
  have h : ((dIt sAttn).s.residents.all fun p => p.2.2.hazards.isEmpty) = true := by decide +kernel
  rw [List.all_eq_true] at h
  simp only [State.kvBusy, List.any_eq_false]
  intro p hp
  simp [List.isEmpty_iff.mp (h p hp)]

/-! A function with a table, a top-level region, a directory, weight sets and a peer -/

/-- Numbers in memory, each at an offset from the base of host memory, with its width in bytes. -/
def cells (xs : List (Nat × Nat × Nat)) : Memory :=
  xs.foldl (fun m x => m.writeList (Config.hostBase + x.1) (leBytes x.2.1 x.2.2)) []

/-- Virtual address 0 of function 0 names the base of host memory, for 2^30 bytes. Its top-level region has its RCB at 0x1000, a
directory of 16 entries at 0x8000, in which entry 3 is a durable object of 64 bytes, its own, named 7 and berthed on core 0, weight
sets at 0xC000, of which entry 1 is valid, entry 2 too with its B slot selected and version 5, and a child queue of 16 entries. -/
def world : Memory := cells [
  (0x1000, 8, 0), (0x1008, 8, Config.hostBase + 0x2000), (0x1010, 4, 1), (0x1018, 8, 0xE000), (0x1020, 2, 16), (0x1028, 8, 0x8000),
  (0x1030, 8, 0xC000), (0x1040, 8, 0xFFFF_FFFF_FFFF_FFFF), (0x1098, 8, 1), (0x10B8, 4, 1), (0x10C0, 4, 32), (0x10C4, 4, 512),
  (0x2000, 8, Config.hostBase + 0x3003), (0x3000, 8, Config.hostBase + 0x4003), (0x4000, 8, Config.hostBase + 0x3F),
  (0x8000, 8, 0x1_4A42_4F5A), (0x8008, 4, 16), (0x800C, 4, 1), (0x8010, 8, 65536),
  (0x81C0, 8, 7), (0x81C8, 8, 2 ^ 32 + 64), (0x81D0, 8, 4 * 2 ^ 32 + 1), (0x81D8, 8, 1), (0x8200, 8, 2 ^ 32 + 128),
  (0xC040, 8, 0x4000), (0xC048, 8, 0x5000), (0xC050, 8, 64), (0xC058, 8, 1),
  (0xC080, 8, 0x4000), (0xC088, 8, 0x5000), (0xC090, 8, 64), (0xC098, 8, 5 * 2 ^ 32 + 3)]

def wld : State :=
  { up with mem := world, vfs := up.vfs.modify 0 fun f => { f with topRcb := Config.hostBase + 0x1000, lids := 1, nextLid := 2 },
            launches := [{ launch0 with region := 0x1000 }],
            peers := [{ node := 1, dirbase := 0, dirn := 0, wst := [] }] }

/-- The driver of a workgroup of that region. -/
def drvW (f : Workgroup → Workgroup) : State :=
  { wld.setSlot 0 0 (some (f { up.openWg false with region := 0x1000 })) with cur := { core := 0, slot := 0, agent := .driver } }

theorem test_world : wld.regionOk 0 0x1000 = true ∧ (wld.dir? 0 0x1000).isSome = true ∧ wld.wsVa 0 0x1000 1 = some 0xC040 := by
  decide +kernel

/-- The leaf at 2^30 is absent, and lane 31 names it. -/
def sAbsent : State :=
  { wld.setSlot 0 0 (some (onWarp (fun w => { w with v := w.v.set 2 (List.replicate 31 0 ++ [0x4000_0000]) })
      { up.openWg true with region := 0x1000 })) with
    mem := wld.mem.writeList (Config.hostBase + 0x4008) [45], cur := { core := 0, slot := 0, agent := .warp 0 } }
def parkPage {α : Type} : Except MemStop α → Option Nat
  | .error (.park page) => some page
  | _ => none

theorem hyp_FormatsAndLaneTraps_tran : sAbsent.warpRuns oLd.ctl (wIt sAbsent c7) ∧ (wIt sAbsent c7).wg.spec (wIt sAbsent c7).w = false ∧
    (wIt sAbsent c7).memReg oLd (fmtRegs oLd.typ) 2 = none ∧
    parkPage ((wIt sAbsent c7).globalLanes oLd (fmtBytes oLd.typ) .read) = some (2 ^ 30) ∧
    laneBit (wIt sAbsent c7).act 31 = true ∧
    failed ((wIt sAbsent c7).s.translate 0 0 ((wIt sAbsent c7).gaddr oLd 31) .read) = some .tran ∧
    (∀ M, M < 31 → laneBit (wIt sAbsent c7).act M = true →
      failed ((wIt sAbsent c7).s.translate 0 0 ((wIt sAbsent c7).gaddr oLd M) .read) = none) ∧
    parkPage ((wIt sAbsent c7).globalLanes oSt (fmtBytes oSt.typ) .write) = some (2 ^ 30) ∧
    (wIt sAbsent c7).memReg oAtom (atomRegs oAtom.aop oAtom.typ) 2 = none ∧
    parkPage ((wIt sAbsent c7).globalLanes oAtom (fmtBytes oAtom.typ) .rw) = some (2 ^ 30) :=
  ⟨warpRuns_of (by decide +kernel), by decide +kernel⟩

/-! Copies -/

/-- d5 is a global address; d6, d7 say two rows of 8 bytes, 8 apart; d8, d9 say two rows of 8 bytes listed at 64. -/
def sCopy : State := drvW (dreg 5 0x100 ∘ dreg 6 (BitVec.ofNat 64 (2 ^ 33 + 8)) ∘ dreg 7 (BitVec.ofNat 64 (2 ^ 35 + 8)) ∘
  dreg 8 (BitVec.ofNat 64 (2 ^ 33 + 64)) ∘ dreg 9 (BitVec.ofNat 64 (2 ^ 35 + 8)))
def cAcc : Access := (dIt sCopy).engAccess (gOf sCopy) 2 0
def oCopy : Op3 := op 0x80 (d 4) (d 5) (d 6)
def copySrc : Side := copySide (.at_ 0 0 0) false ((dIt sCopy).src (d 5)) 2 8
def copyDst : Side := copySide (.at_ 0 0 65536) true ((dIt sCopy).src (d 4)) 2 8

theorem hyp_CopyWords : sCopy.Mem ∧ sCopy.atRest ∧ sCopy.wgRuns oCopy.ctl (dIt sCopy) (gOf sCopy) ∧ (dIt sCopy).calm (gOf sCopy) ∧
    (dIt sCopy).noCopyEngine (gOf sCopy) = false ∧ (Instr.copy oCopy).wf = true ∧ 8 ≤ ((dIt sCopy).src (.dreg 7)).toNat / 2 ^ 32 ∧
    copySpd (gOf sCopy) ((dIt sCopy).src (d 4)) 2 8 8 true = .at_ 0 0 65536 ∧ canonical ((dIt sCopy).src (d 5)).toNat = true ∧
    (dIt sCopy).copies cAcc copySrc copyDst 8 :=
  ⟨mem_of (by decide +kernel), rest_of (by decide +kernel), wgRuns_of (by decide +kernel) (by decide +kernel), calm_of (by decide +kernel), by decide +kernel,
   by decide, by decide +kernel, at_of (by decide +kernel), by decide +kernel, by decide +kernel, by decide +kernel, by decide +kernel,
   fun h => by cases h⟩

def oCopyx : Op3 := op 0x80 (d 4) (d 5) (d 8)
def copyxSrc : Side := { scratch := false, rows := (List.range 2).map fun k =>
  ((dIt sCopy).src (d 5)).toNat + leNat ((List.range 4).map fun i => sCopy.scr 0 (64 + 4 * k + i)) * 8 }

theorem hyp_CopyWords_listed : (Instr.copyx oCopyx).wf = true ∧ ((dIt sCopy).src (.dreg 8)).toNat / 2 ^ 20 % 2 ^ 12 = 0 ∧
    ((dIt sCopy).src (.dreg 8)).toNat % 2 ^ 20 % 4 = 0 ∧ regionEnd 64 2 4 4 ≤ (gOf sCopy).hdr.scratch ∧
    canonical ((dIt sCopy).src (d 5)).toNat = true ∧ copySpd (gOf sCopy) ((dIt sCopy).src (d 4)) 2 8 8 true = .at_ 0 0 65536 ∧
    (dIt sCopy).copies cAcc copyxSrc copyDst 8 :=
  ⟨by decide, by decide +kernel, by decide +kernel, by decide +kernel, by decide +kernel, at_of (by decide +kernel), by decide +kernel,
   by decide +kernel, by decide +kernel, fun h => by cases h⟩

theorem test_copy : (after (.copy oCopy) { sCopy with mem := sCopy.mem.writeList (Config.hostBase + 0x10F) [9] }).scr 0 15 = 9 := by
  decide +kernel

/-! Batches and launches -/

def cmd0 : Cmd := { engine := 2, status := 0, data := 0, pend := .none }
/-- Batch 15 is in flight with a finished command, and one record waits. -/
def sBat : State := drvS fun g => { g with batches := g.batches.set 15 { state := .inflight, cmds := [cmd0] }, evq := [0xF2] }

theorem hyp_BatchWords : sBat.wgRuns c7 (dIt sBat) (gOf sBat) ∧ (Instr.bfence (op 0 no (.imm 15) no)).wf = true ∧
    (gOf sBat).fenceWaits (immNat (.imm 15)) = true ∧ (gOf sBat).fenceWaits (immNat (.imm 0)) = false ∧
    (Instr.bwait (op 0 no (.imm 0) no)).wf = true ∧ (gOf sBat).inflight (immNat (.imm 0)) = false ∧
    (Instr.evpop (op 1 (d 1) no no)).wf = true ∧ (gOf sBat).evq = 0xF2 :: [] ∧ (gOf sD).evq = [] ∧ (gOf sD).flying = [] ∧
    (sBat.wg? 0 0).isSome = true ∧ (gOf sBat).inflight 15 = true ∧ cmdsPending (sBat.core 0).passesRun ((gOf sBat).batch 15).cmds = false ∧
    15 < (gOf sBat).batches.length ∧ (gOf sFull).open_ ≠ [] ∧ (gOf sBat).open_ = [] :=
  ⟨wgRuns_of (by decide +kernel) (by decide +kernel), by decide +kernel⟩

theorem test_bfence_empty : ((after (.bfence (op 0 no (.imm 3) no)) sD).wg? 0 0).map (·.evq) = some [0x3F] := by decide +kernel

theorem hyp_RecordsAndLaunches : (∀ c ∈ [cmd0, { cmd0 with status := 255, data := 65536 }],
      c.engine < 16 ∧ c.status < 256 ∧ c.data < 2 ^ 64 ∧ c.data % 65536 = 0) ∧
    ((∀ c ∈ [cmd0], c.status = 0) ∧ [cmd0].getLast? = some cmd0) ∧
    ([cmd0, { cmd0 with status := 255, data := 65536 }] = [cmd0] ++ { cmd0 with status := 255, data := 65536 } :: [] ∧ (255 : Nat) ≠ 0) := by
  decide

/-- d2 names a child image at 0x6000. -/
def sKid : State := drvW (dreg 2 0x6000)

theorem hyp_RecordsAndLaunches_launch : sKid.wgRuns c7 (dIt sKid) (gOf sKid) ∧ (Instr.launch (op 0 (d 1) (d 2) .zero)).wf = true ∧
    (dIt sKid).s.launchOf (gOf sKid) = some { launch0 with region := 0x1000 } ∧
    (dIt sKid).s.launchStatus (gOf sKid).vf (gOf sKid).region.toNat ((dIt sKid).src (d 2)).toNat = 0 ∧
    sD.wgRuns c7 (dIt sD) (gOf sD) ∧ (dIt sD).s.launchOf (gOf sD) = some launch0 ∧
    (dIt sD).s.launchStatus (gOf sD).vf (gOf sD).region.toNat ((dIt sD).src (d 2)).toNat ≠ 0 :=
  ⟨wgRuns_of (by decide +kernel) (by decide +kernel), by decide, by decide +kernel, by decide +kernel,
   wgRuns_of (by decide +kernel) (by decide +kernel), by decide +kernel, by decide +kernel⟩

/-- Core 1 holds the line of the child's image dirty. -/
def sKidPin : State := sKid.modCore 1 fun co =>
  { co with l1 := [{ line := (Config.hostBase + 0x6000) / 64, data := List.replicate 64 0, dirty := 1, streams := 1, poison := false, vf := 0, owners := 1 }] }

theorem hyp_RecordsAndLaunches_pins : sKidPin.wgRuns c7 (dIt sKidPin) (gOf sKidPin) ∧ (gOf sKidPin).drv.block = .none ∧
    (dIt sKidPin).s.devPin 0 0 ((dIt sKidPin).s.launchLines 0 0x1000 0x6000) = some ((Config.hostBase + 0x6000) / 64, 0x6000) ∧
    (dIt sKid).s.devPin 0 0 ((dIt sKid).s.launchLines 0 0x1000 0x6000) = none :=
  ⟨wgRuns_of (by decide +kernel) (by decide +kernel), by decide +kernel⟩

theorem hyp_FoldHash : (List.replicate 26 (5 : W64)).length = 26 := by decide

/-! Prefix tables and page frames -/

/-- d1 is the SPD of a result, d2 that of a key block of zeros, d3 and d4 a table of 2 buckets at 0x6000. -/
def sKv : State := drvW (dreg 1 512 ∘ dreg 3 0x6000 ∘ dreg 4 1)
def kvAcc : Access := (dIt sKv).engAccess (gOf sKv) 2 0
def zeroKey : List Nat := List.replicate 26 0
def kvBucket : Nat := bucketVa 0x6000 1 zeroKey
def oKv (m : BitVec 8) : Op3 := op m (d 1) (d 2) (d 3)

theorem hyp_PrefixTable : sKv.wgRuns c7 (dIt sKv) (gOf sKv) ∧ (dIt sKv).calm (gOf sKv) ∧
    copySpd (gOf sKv) ((dIt sKv).src (d 1)) 1 8 0 true = .at_ 512 0 65536 ∧
    spd (gOf sKv) ((dIt sKv).src (d 2)) 1 208 (spdPitch ((dIt sKv).src (d 2))) false = .at_ 0 0 65536 ∧
    tableTrap ((dIt sKv).src (.dreg 3)) ((dIt sKv).src (.dreg 4)) = none ∧ (dIt sKv).s.keyWords 0 0 = zeroKey ∧
    (dIt sKv).s.touchPin kvAcc (touches kvBucket 1536 .read) = none ∧ (Instr.kvfindLook (oKv 0)).wf = true ∧
    (Instr.kvfindRef (oKv 1)).wf = true ∧ (Instr.kvfindUnref (oKv 2)).wf = true ∧ keyBad zeroKey = false ∧
    (dIt sKv).s.touchFail kvAcc (touches kvBucket 1536 .read) = none ∧
    (((dIt sKv).s.sendFar kvAcc kvBucket).touchRead kvAcc (touches kvBucket 1536 .read)).findEntry kvAcc kvBucket zeroKey = none ∧
    (Instr.kvins (oKv 0)).wf = true ∧ hNode 0 = (dIt sKv).s.img.nodeid ∧ (dIt sKv).s.img.dirn ≤ hIndex 0 ∧
    (dIt sKv).s.firstPin 0 [lineOf ((dIt sKv).s.dirPa 0)] = none :=
  ⟨wgRuns_of (by decide +kernel) (by decide +kernel), calm_of (by decide +kernel), at_of (by decide +kernel), at_of (by decide +kernel),
   by decide +kernel⟩

/-- A key block with a reserved bit, and a bucket in which way 7 holds the key of zeros. -/
def sKvBad : State := sKv.modCore 0 fun co => { co with scratch := [(15, 1)] }
def sKvHit (refs : Byte) : State := { sKv with
  mem := sKv.mem.writeList (Config.hostBase + kvBucket + 192 * 7 + 24) [1, 0, 0, 0, refs] }
def kvHit (refs : Byte) : State :=
  ((dIt (sKvHit refs)).s.sendFar kvAcc kvBucket).touchRead kvAcc (touches kvBucket 1536 .read)

theorem hyp_PrefixTable_keys : keyBad ((dIt sKvBad).s.keyWords 0 0) = true ∧
    (kvHit 0).findEntry kvAcc kvBucket zeroKey = some 7 ∧ (kvHit 0).touchNat kvAcc (kvBucket + 192 * 7 + 28) 4 = 0 ∧
    (kvHit 1).findEntry kvAcc kvBucket zeroKey = some 7 ∧ (kvHit 1).touchNat kvAcc (kvBucket + 192 * 7 + 28) 4 = 1 ∧
    (kvHit 0).touchFail kvAcc (touches (kvBucket + 192 * 7 + 24) 8 .rw) = none := by
  decide +kernel

/-- d5 is a handle of node 1, which is a peer here, and of node 2, which is none. -/
def sKvFar (node : Nat) : State := drvW (dreg 1 512 ∘ dreg 3 0x6000 ∘ dreg 4 1 ∘ dreg 5 (BitVec.ofNat 64 (node * 2 ^ 52)) ∘
  dreg 10 0x7000)

theorem hyp_PrefixTable_far : hNode ((dIt (sKvFar 1)).src (.dreg 5)).toNat ≠ (dIt (sKvFar 1)).s.img.nodeid ∧
    ((dIt (sKvFar 1)).s.peer? 0 (hNode ((dIt (sKvFar 1)).src (.dreg 5)).toNat)).isSome = true ∧
    hNode ((dIt (sKvFar 2)).src (.dreg 5)).toNat ≠ (dIt (sKvFar 2)).s.img.nodeid ∧
    (dIt (sKvFar 2)).s.peer? 0 (hNode ((dIt (sKvFar 2)).src (.dreg 5)).toNat) = none ∧
    ((dIt (sKvFar 2)).s.portFor 0).isSome = true := by decide +kernel

/-- Every port is down. -/
def sKvCut : State := { sKvFar 1 with ports := (sKvFar 1).ports.map fun p => { p with down := true } }

theorem hyp_PrefixTable_cut : (dIt sKvCut).s.portFor 0 = none ∧ (dIt sKvCut).s.peer? 0 1 = none := by decide +kernel

theorem test_kvown_cut : ((after (.kvown (op 0 (d 2) (d 5) no)) (sKvCut.modWg 0 0 (dreg 2 512))).wg? 0 0).map
    (fun g => g.open_.map (·.status)) = some [7] := by decide +kernel

/-- The frame at 0x7000 with a valid count of 48, and one that the caller owns: its directory is at 0x6000. -/
def sFrm : State := drvW (dreg 1 0x7000 ∘ dreg 2 512)
def frmAcc : Access := (dIt sFrm).engAccess (gOf sFrm) 2 0

theorem hyp_PageFrames : sFrm.wgRuns c7 (dIt sFrm) (gOf sFrm) ∧ (dIt sFrm).calm (gOf sFrm) ∧
    (Instr.kvapp (op 3 (d 1) (d 2) (d 3))).wf = true ∧ (op 3 (d 1) (d 2) (d 3)).xtBit 3 = false ∧ frameTrap ((dIt sFrm).src (d 1)) = none ∧
    spd (gOf sFrm) ((dIt sFrm).src (d 2)) 1 (3 * 48 + 8) (spdPitch ((dIt sFrm).src (d 2))) false = .at_ 512 0 65536 ∧
    ((dIt sFrm).src (d 3)).toNat / 4 = 0 ∧ (dIt sFrm).s.touchPin frmAcc (touches 0x7000 (512 + 96 * 48) .read) = none ∧
    (Instr.kvtrim (op 0 (d 1) (.imm 48) no)).wf = true ∧ (dIt sFrm).s.touchPin frmAcc (touches 0x7000 64 .read) = none ∧
    (Instr.kvown (op 0 (d 2) (d 3) no)).wf = true ∧ copySpd (gOf sFrm) ((dIt sFrm).src (d 2)) 1 16 0 true = .at_ 512 0 65536 ∧
    hNode ((dIt sFrm).src (d 3)).toNat = (dIt sFrm).s.img.nodeid ∧ (dIt sFrm).s.firstPin 0 ([] : List Nat) = none ∧
    (dIt sFrm).s.img.dirn ≤ hIndex ((dIt sFrm).src (d 3)).toNat ∧
    (Instr.kvpull (op 0 (d 1) (d 3) (d 3))).wf = true ∧ (dIt sFrm).s.touchPin frmAcc (touches 0x7000 (512 + 96 * 48) .write) = none :=
  ⟨wgRuns_of (by decide +kernel) (by decide +kernel), calm_of (by decide +kernel), by decide, by decide, by decide +kernel,
   at_of (by decide +kernel), by decide +kernel, by decide +kernel, by decide, by decide +kernel, by decide, at_of (by decide +kernel),
   by decide +kernel⟩

/-- A relay of width 2 for the form of `kvapp` with a leg. -/
def gLeg : Workgroup := { gOf sFrm with relay := some (relay2 2 1 .body [freshLeg, freshLeg]) }

theorem hyp_PageFrames_leg : (opx 0 9 (d 1) (d 2) (d 3)).xtBit 3 = true ∧ gLeg.hdr.relay = true ∧
    gLeg.relay = some (relay2 2 1 .body [freshLeg, freshLeg]) ∧
    (opx 0 9 (d 1) (d 2) (d 3)).xt.toNat % 8 < (relay2 2 1 .body [freshLeg, freshLeg]).width := by decide +kernel

/-- The directory, of one entry, at 0x6000: generation 1, open, the frame at 0x7000, which names the handle. -/
def sOwn : State := { sFrm with
  img := { sFrm.img with dirn := 1, dirbase := Config.hostBase + 0x6000 }
  mem := (((((sFrm.mem.writeList (Config.hostBase + 0x7000) [1]).writeList (Config.hostBase + 0x7008) [48]).writeList
    (Config.hostBase + 0x6000) (leBytes 8 (gOf sFrm).ownerWord)).writeList (Config.hostBase + 0x6008) (leBytes 8 (Config.hostBase + 0x7000))).writeList
    (Config.hostBase + 0x6010) [1, 1]) }

theorem hyp_PageFrames_trim : (dIt sFrm).s.headerFail frmAcc 0x7000 = none ∧ (dIt sFrm).s.ownsFrame frmAcc (gOf sFrm).ownerWord 0x7000 = false ∧
    (dIt sOwn).s.headerFail frmAcc 0x7000 = none ∧ (dIt sOwn).s.ownsFrame frmAcc (gOf sFrm).ownerWord 0x7000 = true ∧ (dIt sOwn).s.touchNat frmAcc 0x7008 2 / 256 % 2 = 0 ∧
    (dIt sOwn).s.touchNat frmAcc 0x7008 2 % 256 = 48 := by decide +kernel

/-- The same directory, with a valid count and a state of the entry; d5 is the handle, d6 the address of a destination. -/
def sKvOwn (vc st : Byte) : State :=
  let s := drvW (dreg 1 0x7000 ∘ dreg 2 512 ∘ dreg 5 1 ∘ dreg 6 0x9000)
  { s with
    img := { s.img with dirn := 1, dirbase := Config.hostBase + 0x6000 }
    mem := (((((s.mem.writeList (Config.hostBase + 0x7000) [1]).writeList (Config.hostBase + 0x7008) [vc]).writeList
      (Config.hostBase + 0x6000) (leBytes 8 (gOf sFrm).ownerWord)).writeList (Config.hostBase + 0x6008) (leBytes 8 (Config.hostBase + 0x7000))).writeList
      (Config.hostBase + 0x6010) [st, 1]) }

/-- `kvapp`, and `kvtrim` to 1 and to 2, of an open frame of two tokens, the caller's own. -/
theorem hyp_PageFrames_own : (sKvOwn 2 1).wgRuns c7 (dIt (sKvOwn 2 1)) (gOf (sKvOwn 2 1)) ∧ (dIt (sKvOwn 2 1)).calm (gOf (sKvOwn 2 1)) ∧
    (sKvOwn 2 1).Mem ∧ (sKvOwn 2 1).atRest ∧ (dIt (sKvOwn 2 1)).s.ruined = [] ∧
    (dIt (sKvOwn 2 1)).s.touchPin frmAcc (touches 0x7000 (512 + 96 * 48) .read) = none ∧
    (dIt (sKvOwn 2 1)).s.firstPin 0 (((dIt (sKvOwn 2 1)).s.headerEnt frmAcc 0x7000).map lineOf) = none ∧
    (dIt (sKvOwn 2 1)).s.headerFail frmAcc 0x7000 = none ∧ (dIt (sKvOwn 2 1)).s.ownsFrame frmAcc (gOf (sKvOwn 2 1)).ownerWord 0x7000 = true ∧
    (dIt (sKvOwn 2 1)).s.touchNat frmAcc 0x7008 2 = 2 ∧
    ({ bytes := (List.range 152).map fun i => (sKvOwn 2 1).scr 0 (512 + i) } : TokenRec).bad 48 = false ∧
    (dIt (sKvOwn 2 1)).s.touchFail frmAcc (touches 0x7000 (512 + 96 * 48) .rw) = none ∧
    (dIt (sKvOwn 2 1)).s.touchFail frmAcc (touches 0x7000 64 .rw) = none :=
  ⟨wgRuns_of (by decide +kernel) (by decide +kernel), calm_of (by decide +kernel), mem_of (by decide +kernel), rest_of (by decide +kernel), by decide +kernel⟩

/-- No `kvapp` has named the dimension of the frame, or one has. -/
theorem hyp_PageFrames_dim : ((dIt (sKvOwn 2 1)).s.bump.touchPut frmAcc 0x7008 1 1).frameDim? (Config.hostBase + 0x7000) = none ∧
    (((dIt (sKvOwn 2 1)).s.bump.namesDim (Config.hostBase + 0x7000) 48).touchPut frmAcc 0x7008 1 1).frameDim?
      (Config.hostBase + 0x7000) = some 48 := by decide +kernel

theorem test_kvtrim : ((after (.kvtrim (op 0 (d 1) (.imm 1) no)) { sKvOwn 2 1 with frameDims := [(Config.hostBase + 0x7000, 1, 48)] }).wg? 0 0).map
    (fun g => g.open_.map fun q => (q.status, q.data)) = some [(0, 2 ^ 40)] := by decide +kernel

/-- `kvown` and `kvpull` of a published frame. -/
theorem hyp_PageFrames_published : (sKvOwn 2 2).wgRuns c7 (dIt (sKvOwn 2 2)) (gOf (sKvOwn 2 2)) ∧
    (dIt (sKvOwn 2 2)).calm (gOf (sKvOwn 2 2)) ∧ (sKvOwn 2 2).Mem ∧ (sKvOwn 2 2).atRest ∧ hNode ((dIt (sKvOwn 2 2)).src (d 5)).toNat = (dIt (sKvOwn 2 2)).s.img.nodeid ∧
    ((dIt (sKvOwn 2 2)).s.bump.ownEnt frmAcc 1).current 1 1 = true ∧ ((dIt (sKvOwn 2 2)).s.bump.ownEnt frmAcc 1).state = 2 ∧
    ((dIt (sKvOwn 2 1)).s.bump.ownEnt frmAcc 1).state = 1 ∧ (dIt (sKvOwn 2 2)).s.physFail frmAcc ((dIt (sKvOwn 2 2)).s.dirPa 1) = none ∧
    (dIt (sKvOwn 2 1)).s.physFail frmAcc ((dIt (sKvOwn 2 1)).s.bump.ownEnt frmAcc 1).frame = none ∧
    (∀ i, i < 80 → (dIt (sKvOwn 2 2)).s.physFail frmAcc (((dIt (sKvOwn 2 2)).s.bump.ownEnt frmAcc 1).frame + 64 * i) = none) ∧
    frameTrap ((dIt (sKvOwn 2 2)).src (d 6)) = none ∧
    (dIt (sKvOwn 2 2)).s.touchFail frmAcc (touches 0x9000 (512 + 96 * 48) .write) = none ∧
    (dIt (sKvOwn 2 2)).s.touchPin frmAcc (touches 0x9000 (512 + 96 * 48) .write) = none ∧
    (dIt (sKvOwn 2 2)).s.firstPin 0 (((dIt (sKvOwn 2 2)).s.dirPa 1 ::
      (List.range 80).map fun i => ((dIt (sKvOwn 2 2)).s.ownEnt frmAcc 1).frame + 64 * i).map lineOf) = none :=
  ⟨wgRuns_of (by decide +kernel) (by decide +kernel), calm_of (by decide +kernel), mem_of (by decide +kernel), rest_of (by decide +kernel), by decide +kernel⟩

theorem test_kvown : (after (.kvown (op 0 (d 2) (d 5) no)) (sKvOwn 2 2)).scr 0 520 = 2 ∧
    (after (.kvown (op 0 (d 2) (d 5) no)) (sKvOwn 2 2)).scr 0 521 = 1 := by decide +kernel

/-- A frame of zeros, and a token record of zeros. -/
theorem hyp_PageFrames_append : ({ bytes := List.replicate (512 + 96 * 192) 0 } : Frame).bytes.length = 512 + 96 * 192 ∧
    ({ bytes := List.replicate (512 + 96 * 192) 0 } : Frame).valid < 48 := by decide +kernel

/-! Weight sets -/

/-- d1 names entry 1, d2 a version, d3 a node, d4 and d5 a list of one node. -/
def sWs : State := drvW (dreg 1 1 ∘ dreg 3 1 ∘ dreg 4 0x6000 ∘ dreg 5 1 ∘ dreg 6 0xFFF ∘ dreg 7 0x1000)
def wsAcc : Access := (dIt sWs).engAccess (gOf sWs) 2 0
/-- The same without a table. -/
def sWs0 : State := drvS (dreg 1 1 ∘ dreg 4 0x6000 ∘ dreg 5 1)

theorem hyp_WeightSets : sWs.wgRuns c7 (dIt sWs) (gOf sWs) ∧ (dIt sWs).calm (gOf sWs) ∧ ((dIt sWs).src (.imm 255)).toNat < 256 ∧
    ((dIt sWs).src (d 1)).toNat < 256 ∧ (dIt sWs0).s.wsVa 0 0 1 = none ∧ (Instr.wsref (op 0 (d 2) (d 1) no)).wf = true ∧
    (dIt sWs).s.wsVa (gOf sWs).vf (gOf sWs).region.toNat 1 = some 0xC040 ∧
    (dIt sWs).s.translate 0 0 0xC040 .rw = .ok (Config.hostBase + 0xC040) ∧
    (dIt sWs).s.translate 0 0 0xC040 .read = .ok (Config.hostBase + 0xC040) ∧
    (dIt sWs).s.holder 0 (lineOf (Config.hostBase + 0xC040)) = none ∧
    (dIt sWs).s.accPoison wsAcc ((List.range 64).map (Config.hostBase + 0xC040 + ·)) = false ∧
    (gOf sWs).captures.find? (fun c => c.1 == 1) = none ∧
    (wsEntry (((dIt sWs).s.touchRead wsAcc (touches 0xC040 64 .read)).touchNat wsAcc) 0xC040).valid = true ∧
    (wsEntry (((dIt sWs).s.touchRead wsAcc (touches 0xC000 64 .read)).touchNat wsAcc) 0xC000).valid = false :=
  ⟨wgRuns_of (by decide +kernel) (by decide +kernel), calm_of (by decide +kernel), by decide +kernel, by decide +kernel, by decide +kernel,
   by decide, by decide +kernel, ok_of (by decide +kernel), ok_of (by decide +kernel), by decide +kernel⟩

theorem hyp_WeightSets_captured : ({ gOf sWs with captures := [(1, true)] } : Workgroup).captures.find? (fun c => c.1 == 1) = some (1, true) := by
  decide +kernel

theorem test_wsref : (drv0 (after (.wsref (op 0 (d 2) (.imm 2) no)) sWs)).d.getD 2 0 = 0x5000 ∧
    (after (.wsref (op 0 (d 2) (.imm 2) no)) sWs).mem.bytes (Config.hostBase + 0xC080 + 36) 1 = [1] := by decide +kernel

theorem hyp_WeightSets_swap : (Instr.wsswap (op 0 no (d 1) (d 2))).wf = true ∧
    (dIt sWs).s.touchPin wsAcc (touches 0xC040 64 .rw) = none ∧ (dIt sWs).s.touchFail wsAcc (touches 0xC040 64 .rw) = none ∧
    (wsEntry (((dIt sWs).s.bump.touchRead wsAcc (touches 0xC040 64 .rw)).touchNat wsAcc) 0xC040).valid = true ∧
    (wsEntry (((dIt sWs).s.bump.touchRead wsAcc (touches 0xC040 64 .rw)).touchNat wsAcc) 0xC040).version = ((dIt sWs).src (d 2)).toNat ∧
    (wsEntry (((dIt sWs).s.bump.touchRead wsAcc (touches 0xC040 64 .rw)).touchNat wsAcc) 0xC040).version ≠ ((dIt sWs).src (d 1)).toNat ∧
    (wsEntry (((dIt sWs).s.bump.touchRead wsAcc (touches 0xC000 64 .rw)).touchNat wsAcc) 0xC000).valid = false := by decide +kernel

/-- `wsswap` of the version that entry 1 has flips its selector and advances its version. -/
theorem test_wsswap : (after (.wsswap (op 0 no (d 1) (d 2))) sWs).mem.bytes (Config.hostBase + 0xC058) 8 = leBytes 8 (2 ^ 32 + 3) := by
  decide +kernel

theorem hyp_WeightSets_pull : (Instr.wspull (op 0 no (d 1) (d 7))).wf = true ∧ 4096 ≤ ((dIt sWs).src (d 7)).toNat ∧
    (Instr.wspull (op 0 no (d 1) (d 3))).wf = true ∧ ((dIt sWs).src (d 3)).toNat < 4096 ∧
    ((dIt sWs).s.peer? (gOf sWs).vf ((dIt sWs).src (d 3)).toNat).isSome = true ∧
    (let x := wsEntry ((dIt sWs).s.touchNat wsAcc) 0xC040
     (dIt sWs).s.touchPin wsAcc (touches 0xC040 64 .rw ++ if x.valid then touches x.idle x.size .write else []) = none) ∧
    ((dIt sWs).src (d 6)).toNat < 4096 ∧ (dIt sWs).s.peer? (gOf sWs).vf ((dIt sWs).src (d 6)).toNat = none ∧
    (dIt sWs).s.touchPin wsAcc (touches 0xC040 64 .rw) = none := by decide +kernel

/-- The RCB names weight sets no more; the function still has its port. -/
def sWsNone : State := { sWs with mem := sWs.mem.writeList (Config.hostBase + 0x1030) (leBytes 8 0) }

theorem hyp_WeightSets_noTable : (dIt sWsNone).s.wsVa (gOf sWsNone).vf (gOf sWsNone).region.toNat 1 = none ∧
    ((dIt sWsNone).s.peer? (gOf sWsNone).vf ((dIt sWsNone).src (d 3)).toNat).isSome = true := by decide +kernel

theorem hyp_WeightSets_bcast : (Instr.wsbcast (op 0 no (d 1) (d 2))).wf = true ∧ ((dIt sWs).src (.dreg 3)).toNat % 2 = 1 ∧
    (Instr.wsbcast (op 0 no (d 1) (d 4))).wf = true ∧ ((dIt sWs).src (.dreg 4)).toNat % 2 = 0 ∧ 0 < ((dIt sWs).src (.dreg 5)).toNat ∧
    ((dIt sWs).src (.dreg 5)).toNat < 4096 ∧
    (let x := wsEntry ((dIt sWs).s.touchNat wsAcc) 0xC040
     (dIt sWs).s.touchPin wsAcc (touches 0xC040 64 .rw ++ (touches 0x6000 2 .read ++ if x.valid then touches x.active x.size .read else []))
       = none) ∧
    (dIt sWs0).s.touchPin wsAcc (touches 0x6000 2 .read) = none := by decide +kernel

theorem hyp_WeightSets_receive : (wld.vf 0).topRcb ≠ 0 ∧ wld.topNat 0 48 8 ≠ 0 ∧
    (wsEntry (wld.dev 0) (wld.topNat 0 48 8 + 64 * 1)).valid = true ∧
    (wsEntry (wld.dev 0) (wld.topNat 0 48 8 + 64 * 1)).size = (List.replicate 64 (7 : Byte)).length ∧
    (wsEntry (wld.dev 0) (wld.topNat 0 48 8 + 64 * 1)).idleBusy = false ∧
    (wsEntry (wld.dev 0) (wld.topNat 0 48 8 + 64 * 0)).valid = false := by decide +kernel

/-! Objects and relays -/

/-- Slot 0 is bound to the object of entry 3; d1 is a name, d2 a size. -/
def sOb : State := drvW fun g => (dreg 1 9 ∘ dreg 2 64) { g with slots := g.slots.set 0 (.bound 3 4096 64 false) }
def obAcc : Access := (dIt sOb).engAccess (gOf sOb) 2 0
def dir0 : Dir := { base := 0x8000, ent := 16, slot := 65536, off := 65536 }
def ob1 : State := ((dIt sOb).s.bump).setHandle 0 0 1 (.pending 16 none)

theorem hyp_ObjectWords : sOb.wgRuns c7 (dIt sOb) (gOf sOb) ∧ (dIt sOb).calm (gOf sOb) ∧ (gOf sOb).hdr.objects = true ∧
    (gOf sOb).slots.getD 1 .empty = .empty ∧ (Instr.objnew (op 3 (.slot 1) (d 1) (d 2))).wf = true ∧
    (Instr.objopen (op 1 (.slot 1) (d 1) no)).wf = true ∧ ob1.spillFor obAcc 0 0x1000 11 = .ok dir0 ∧ ob1.spillFor obAcc 0 0x1000 6 = .ok dir0 ∧
    ob1.dirFail obAcc dir0 = none ∧ 1 < (gOf sOb).slots.length ∧
    (ob1.findObj 0 dir0 7).isSome = true ∧ ob1.findObj 0 dir0 9 = none ∧ ((dIt sOb).src (d 2)).toNat % 64 = 0 ∧
    ((dIt sOb).src (d 1)).toNat % 64 ≠ 0 :=
  ⟨wgRuns_of (by decide +kernel) (by decide +kernel), calm_of (by decide +kernel), by decide +kernel, by decide +kernel, by decide,
   by decide, ok_of (by decide +kernel), ok_of (by decide +kernel), by decide +kernel⟩

/-- The object is not owned by the workgroup, or not durable. -/
def sObNot : State := { sOb with
  mem := (sOb.mem.writeList (Config.hostBase + 0x81D8) (leBytes 8 (2 * 2 ^ 32))).writeList (Config.hostBase + 0x81CC) [0] }

theorem hyp_ObjectWords_bound : (gOf sOb).slots.getD 0 .empty = .bound 3 4096 64 false ∧
    (dIt sOb).s.bump.spillFor obAcc 0 0x1000 11 = .ok dir0 ∧ (dIt sOb).s.bump.dirFail obAcc dir0 = none ∧
    (gOf sOb).buffers 4096 64 = false ∧ (dIt sOb).s.bump.entFail obAcc dir0 3 = none ∧ (Instr.objdrop (op 0 no (.slot 0) no)).wf = true ∧
    ((dIt sOb).s.bump.objEnt 0 dir0 3).owns (gOf sOb).lid = true ∧
    (∀ w ∈ ((dIt sOb).s.bump.objEnt 0 dir0 3).binds, bindValid w = true → bindOf (gOf sOb).lid (gOf sOb).wgnum w = true ∧ w % 8 = 0) ∧
    (Instr.objsync (op 0 no (.slot 0) no)).wf = true ∧ ((dIt sOb).s.bump.objEnt 0 dir0 3).dur = true ∧
    (dIt sOb).s.bump.touchFail obAcc (touches (dir0.shadow 3) 64 .write) = none ∧ (Instr.objhand (op 0 no (.slot 0) (d 3))).wf = true ∧
    (op 0 no (.slot 0) (d 3)).var.getLsbD 0 = false ∧ (dIt sOb).src (.dreg 3) = 0 ∧
    (dIt sObNot).s.bump.spillFor obAcc 0 0x1000 11 = .ok dir0 ∧ (dIt sObNot).s.bump.dirFail obAcc dir0 = none ∧ ((dIt sObNot).s.bump.objEnt 0 dir0 3).owns (gOf sObNot).lid = false ∧
    ((dIt sObNot).s.bump.objEnt 0 dir0 3).dur = false :=
  ⟨by decide +kernel, ok_of (by decide +kernel), by decide +kernel, by decide +kernel, by decide +kernel, by decide, by decide +kernel,
   by decide +kernel, by decide, by decide +kernel, by decide +kernel, by decide, by decide, by decide +kernel, ok_of (by decide +kernel),
   by decide +kernel⟩

theorem hyp_ObjectWords_pins (ln : Nat) : (dIt sOb).s.holder 0 ln = none := by
  have h : ((List.range (dIt sOb).s.cores.length).all fun c => ((dIt sOb).s.core c).l1.isEmpty) = true := by decide +kernel
  rw [List.all_eq_true] at h
  unfold State.holder
  rw [List.find?_eq_none]
  intro c hc
  have e : ((dIt sOb).s.core c).l1 = [] := List.isEmpty_iff.mp (h c hc)
  simp [Core.l1At, e]

/-- What `objnew` finds, in the form that is not durable: every entry but the third is free, and there is room. -/
theorem hyp_ObjectWords_new : ((dIt sOb).src (d 2)).toNat = 64 ∧ ob1.findObj 0 dir0 9 = none ∧ ob1.freeEnts 0 dir0 ≠ [] ∧ 64 ≤ dir0.slot ∧
    ob1.pickBase 0 64 = some 523264 ∧ ob1.entFail obAcc dir0 (ob1.newEnt 0 dir0 (Config.freeNat (dIt sOb).ctr 2)) = none ∧
    (op 2 (.slot 1) (d 1) (d 2)).var.getLsbD 0 = false := by
  have hf : ob1.freeEnts 0 dir0 = [0, 1, 2, 4, 5, 6, 7, 8, 9, 10, 11, 12, 13, 14, 15] := by decide +kernel
  have h : ∀ i, i < 16 → ob1.entFail obAcc dir0 i = none := by decide +kernel
  have hk : ∀ k, k < 15 → ([0, 1, 2, 4, 5, 6, 7, 8, 9, 10, 11, 12, 13, 14, 15] : List Nat).getD k 0 < 16 := by decide
  refine ⟨by decide +kernel, by decide +kernel, by rw [hf]; exact List.cons_ne_nil _ _, by decide, by decide +kernel, ?_, by decide⟩
  unfold State.newEnt
  rw [hf]
  exact h _ (hk _ (Nat.mod_lt _ (by decide)))

/-- Entry 3 with other words for its berth and its owner. -/
def obWith (berth owner : Nat) : State := ((dIt { sOb with
  mem := (sOb.mem.writeList (Config.hostBase + 0x81D0) (leBytes 8 berth)).writeList (Config.hostBase + 0x81D8) (leBytes 8 owner) }).s.bump).setHandle
    0 0 1 (.pending 16 none)

theorem hyp_ObjectWords_open : ob1.findObj 0 dir0 7 = some 3 ∧ (ob1.objEnt 0 dir0 3).state = 1 ∧ (ob1.objEnt 0 dir0 3).owns (gOf sOb).lid = true ∧
    (ob1.objEnt 0 dir0 3).berth = 0 ∧ (ob1.objEnt 0 dir0 3).binds.all bindValid = false ∧ ob1.entFail obAcc dir0 3 = none ∧
    ((obWith (4 * 2 ^ 32 + 2 ^ 16 + 1) 1).objEnt 0 dir0 3).berth = 1 ∧ (op 0 (.slot 1) (d 1) no).var.getLsbD 0 = false ∧
    ((obWith 4 1).objEnt 0 dir0 3).state = 4 ∧ ((obWith 1 (2 * 2 ^ 32)).objEnt 0 dir0 3).owns (gOf sOb).lid = false ∧
    ((obWith 1 (2 * 2 ^ 32)).objEnt 0 dir0 3).shr = false := by decide +kernel

theorem hyp_ObjectWords_unbound (i base size : Nat) (rdo : Bool) : (gOf sOb).slots.getD 1 .empty ≠ .bound i base size rdo := by
  rw [show (gOf sOb).slots.getD 1 .empty = .empty by decide +kernel]; exact HSlot.noConfusion

theorem test_objsync : (after (.objsync (op 0 no (.slot 0) no)) (sOb.modCore 0 fun co => { co with scratch := [(4096, 5)] })).mem.read
    (Config.hostBase + 0x8000 + 65536 * 7) = 5 := by decide +kernel

/-- The region at 0x5000 is not valid, and core 3 holds an object area of it. -/
def sArea : State := wld.modCore 3 fun co => { co with areas := [{ vf := 0, region := 0x5000, entry := 0, base := 524224, size := 64, failed := false }] }

theorem hyp_RegionAndDispatchEvents : sArea.dev 0 ((0x5000 : W64).toNat + 16) 1 % 2 = 0 ∧
    (∀ l ∈ sArea.launches, l.vf = 0 → l.region = 0x5000 → l.endedAs ≠ none) ∧ wld.dev 0 ((0x1000 : W64).toNat + 16) 1 % 2 = 1 ∧
    sArea.eff 0 (0x5000 : W64).toNat 0 / 2 ^ 63 % 2 = 0 ∧
    (∀ j, j < 4 → (sArea.core (4 * 63 + j)).areas.Pairwise fun x y => x.base + x.size ≤ y.base ∨ y.base + y.size ≤ x.base) ∧ wld.eff 0 (0x1000 : W64).toNat 0 / 2 ^ 63 % 2 = 1 := by decide +kernel

/-- A record has waited 1 ms, one is held, a ticket has waited STEALB, and the string of function 0 has another function. -/
def sDue : State := { wld with
  clock := 3500000
  cores := wld.cores.modify 0 fun co =>
    { co with resume := [{ vf := 0, lid := 1, wgnum := 0, since := 1750000, held := false }, { vf := 0, lid := 1, wgnum := 0, since := 0, held := true }]
              affq := [{ vf := 0, image := 0, ticket := 0, since := 0 }] }
  vfs := wld.vfs.modify 1 fun f => { f with topRcb := Config.hostBase + 0x1000 } }

theorem hyp_RegionAndDispatchEvents_due :
    (sDue.core 0).resume[0]? = some { vf := 0, lid := 1, wgnum := 0, since := 1750000, held := false } ∧ 1750000 + 1750000 ≤ sDue.clock ∧
    (sDue.core 0).resume[1]? = some { vf := 0, lid := 1, wgnum := 0, since := 0, held := true } ∧
    (sDue.core 0).affq[0]? = some { vf := 0, image := 0, ticket := 0, since := 0 } ∧
    sDue.launches.find? (fun l => l.vf == 0 && l.image == 0 && l.endedAs == none) = some { launch0 with region := 0x1000 } ∧
    ({ launch0 with region := 0x1000 } : Launch).rd sDue (({ launch0 with region := 0x1000 } : Launch).recOff sDue 0) 1 = 0 ∧
    ({ launch0 with region := 0x1000 } : Launch).skips sDue 0 = false ∧
    0 + sDue.stealb ≤ sDue.timeOf 0 ∧ (0 : Nat) ≠ 1 ∧ (sDue.regionCores 0 0x1000).contains 1 = true ∧ (sDue.strings[0]?).isSome = true ∧
    sDue.sliceDue 0 = true ∧ up.sliceDue 0 = false := by decide +kernel

/-- The record of the ticket has STATE 5. -/
def sSkip : State := { sDue with
  mem := sDue.mem.writeList (Config.hostBase + ({ launch0 with region := 0x1000 } : Launch).recOff sDue 0) [5] }

theorem hyp_RegionAndDispatchEvents_skip : ({ launch0 with region := 0x1000 } : Launch).skips sSkip 0 = true ∧
    (sSkip.core 0).affq[0]? = some { vf := 0, image := 0, ticket := 0, since := 0 } ∧
    sSkip.launches.find? (fun l => l.vf == 0 && l.image == 0 && l.endedAs == none) = some { launch0 with region := 0x1000 } := by
  decide +kernel

/-- d1 to d3 are the words of a relay of width 2, carry v8, one iteration at most. -/
def sRel : State := drvS fun g => (dreg 1 (BitVec.ofNat 64 (2 ^ 32 + 8 * 256 + 16 + 2)) ∘ dreg 2 0 ∘ dreg 3 0) { g with warps := g.warps ++ g.warps }
def sRelOn : State := drvS fun g => { g with relay := some (relay2 2 0 .body [freshLeg, freshLeg]) }

theorem hyp_RelaysAndRoles : sRel.wgRuns c7 (dIt sRel) (gOf sRel) ∧ (Instr.relay (op 0 no (d 1) no)).wf = true ∧
    (relayOf (gOf sRel) ((dIt sRel).src (.dreg 1)) ((dIt sRel).src (.dreg 2)) ((dIt sRel).src (.dreg 3))).isSome = true ∧
    (gOf sRel).hdr.relay = true ∧ (gOf sRel).relay = none ∧ (Instr.rwait (op 0 (d 1) no no)).wf = true ∧
    sRelOn.wgRuns c7 (dIt sRelOn) (gOf sRelOn) ∧ (gOf sRelOn).relay ≠ none :=
  ⟨wgRuns_of (by decide +kernel) (by decide +kernel), by decide, by decide +kernel, by decide +kernel, by decide +kernel, by decide,
   wgRuns_of (by decide +kernel) (by decide +kernel), by decide +kernel⟩

def relayNew : Relay := { relay2 2 0 .idle [] with begun := false, bodies := false }
/-- Both warps wait in `rjoin`; or both have exited. -/
def gJoin (gone : Bool) : Workgroup :=
  let x : Warp := { (gOf sRel).warps.getD 0 default with block := .rjoin, exited := if gone then 0xFFFF_FFFF else 0 }
  { gOf sRel with warps := [x, x], relay := some relayNew }

theorem hyp_RelaysAndRoles_begin : (up.setSlot 0 0 (some (gJoin false))).wg? 0 0 = some (gJoin false) ∧ relayNew.begun = false ∧
    (gJoin false).joined relayNew = true ∧ (gJoin false).legless relayNew = false ∧ (gJoin true).joined relayNew = true ∧
    (gJoin true).legless relayNew = true := by decide +kernel

/-- Warp 0 waits for role 1, which declares no more registers than it has. -/
def gRole : Workgroup := onWarp (fun w => { w with block := .role 1 }) (up.openWg true)

theorem hyp_RelaysAndRoles_role : (up.setSlot 0 0 (some gRole)).wg? 0 0 = some gRole ∧ (gRole.warps[0]?).isSome = true ∧
    (gRole.warps.getD 0 default).block = .role 1 ∧ gRole.roleLack (gRole.warps.getD 0 default) 1 ≤ 0 ∧ (∀ h ∈ gRole.hazards, h.vreg = none) := by
  decide +kernel

/-! System words -/

/-- The ostler of core 0, in physical context, in the world of function 0. -/
def ostW (f : Ostler → Ostler) : State := { wld.modOstler 0 f with cur := { core := 0, slot := 8, agent := .ostler } }
/-- d1 is the region's RCB, d2 a page-aligned address in it, d3 128. -/
def sO : State := ostW (oreg 1 (BitVec.ofNat 64 (Config.hostBase + 0x1000)) ∘ oreg 2 (BitVec.ofNat 64 Config.hostBase) ∘ oreg 3 128 ∘
  oreg 4 0xFFFF_FFFF_FFFF_FFFF ∘ oreg 5 0x10001)
/-- A privileged driver. -/
def sPriv : State := drvW (onDrv fun x => { x with priv := true, d := x.d.set 1 5 })

theorem hyp_ControlAndTranslation : sO.sysRuns c7 (dIt sO) ∧ (Instr.swrite (op 0 no (.imm 4) (.imm 0xBF))).wf = true ∧
    ((dIt sO).src (.imm 4)).toNat ≤ 4 ∧ sPriv.sysRuns c7 (dIt sPriv) ∧ (Instr.swrite (op 0 no (d 1) (.imm 0))).wf = true ∧
    4 < ((dIt sPriv).src (d 1)).toNat ∧ (dIt sPriv).wg.isSome = true ∧ (Instr.rtt (op 0 (d 6) (d 1) (.imm 14))).wf = true ∧
    ((dIt sO).src (.imm 14)).toNat ≤ 14 ∧ rcbChain (dIt sO).reader 8 ((dIt sO).src (d 1)).toNat = some [Config.hostBase + 0x1000] ∧
    14 < ((dIt sO).src (.imm 15)).toNat ∧ rcbChain (dIt sO).reader 8 ((dIt sO).src (d 2)).toNat = none :=
  ⟨sysRuns_of (by decide +kernel) (by decide +kernel), by decide, by decide +kernel, sysRuns_of (by decide +kernel) (by decide +kernel),
   by decide +kernel⟩

theorem test_swrite : (after (.swrite (op 0 no (.imm 0) (.imm 7))) sO).pinwait = 7 ∧ (after (.swrite (op 0 no (.imm 0) (.imm 0))) sO).pinwait = 1000 := by
  decide +kernel

/-- What a check of a function says. -/
def argOf (x : Except Nat Nat) : Nat × Nat := match x with | .ok n => (0, n) | .error n => (1, n)

theorem hyp_ControlAndTranslation_inval : argOf ((dIt sO).vfArg ((dIt sO).src (.imm 63))) = (0, 63) ∧
    (Instr.tlbinvPg (op 0 (d 6) (d 2) (.imm 63))).wf = true ∧ (Instr.tlbinvVf (op 1 (d 6) (d 0) (.imm 63))).wf = true ∧
    argOf ((dIt sO).vfArg ((dIt sO).src (.imm 64))) = (1, 1) ∧ 63 < ((dIt sO).src (.imm 64)).toNat ∧
    (Instr.tlbinvAll (op 2 (d 6) (d 0) (.imm 0))).wf = true ∧ (Instr.l2opVfwb (op 3 (d 6) (.imm 63) (d 0))).wf = true ∧
    (Instr.l2opWb (op 0 (d 6) (d 2) (d 3))).wf = true ∧ (Instr.l2opInv (op 1 (d 6) (d 2) (d 3))).wf = true ∧
    (Instr.l2opWbi (op 2 (d 6) (d 2) (d 3))).wf = true ∧
    (dIt sO).rangeLines ((dIt sO).src (d 2)).toNat ((dIt sO).src (d 3)).toNat = some [Config.hostBase / 64, Config.hostBase / 64 + 1] ∧
    (∀ co ∈ sO.cores, co.resume = []) ∧ sO.memBad = [] := by decide +kernel

/-- A workgroup without scratchpad and tiles. -/
def gSmall : Workgroup := { up.openWg true with hdr := { openHeader with scratch := 0, tiles := 0 }, tiles := [] }
/-- Slot 0 of the ostler's core holds a workgroup; a driver of function 1 shares it. -/
def sOwg : State := { ostW (oreg 2 (BitVec.ofNat 64 Config.hostBase)) with
  cores := (ostW (oreg 2 (BitVec.ofNat 64 Config.hostBase))).cores.modify 0 fun co => { co with slots := co.slots.set 0 (some gSmall) } }
def sForeign : State :=
  { (wld.setSlot 0 0 (some (up.openWg true))).setSlot 0 1 (some (onDrv (fun x => { x with priv := true }) { up.openWg false with vf := 1 })) with
    cur := { core := 0, slot := 1, agent := .driver } }

theorem hyp_ContextWords : sO.sysRuns c7 (dIt sO) ∧ (Instr.ctxsave (op 1 (d 6) (d 2) (.imm 0))).wf = true ∧
    (dIt sO).s.wg? 0 ((dIt sO).src (.imm 0)).toNat = none ∧ sForeign.sysRuns c7 (dIt sForeign) ∧
    ((dIt sForeign).s.wg? 0 0).isSome = true ∧ (dIt sForeign).foreign 0 = true ∧ sOwg.sysRuns c7 (dIt sOwg) ∧
    ((dIt sOwg).s.wg? 0 0).isSome = true ∧ (dIt sOwg).foreign 0 = false ∧
    (dIt sOwg).reaches (Config.hbmBytes) (recBytes gSmall.hdr) .write = false ∧
    (dIt sOwg).reaches Config.hostBase (recBytes gSmall.hdr) .write = true ∧ gSmall.saveWaits ((dIt sOwg).s.core 0).passesRun false = false ∧
    (dIt sOwg).pinned [(Config.hostBase, recBytes gSmall.hdr)] = none ∧ (gOf sBat).saveWaits ((dIt sBat).s.core 0).passesRun false = true ∧
    (Instr.ctxload (op 0 (d 6) (d 2) (.imm 0))).wf = true ∧ (dIt sO).reaches Config.hbmBytes 64 .rw = false ∧
    (dIt sO).reaches Config.hostBase 64 .rw = true ∧ 8 ≤ ((dIt sO).src (.imm 8)).toNat ∧ (dIt sO).foreign 7 = false ∧
    (dIt sO).s.recordAt ((dIt sO).recMap Config.hostBase .read) = some ({ launch0 with region := 0x1000 }, 0) ∧
    (Instr.halt (op 0 (d 6) no (.imm 0))).wf = true ∧ (Instr.wgstart (op 0 (d 6) (d 2) (.imm 0))).wf = true :=
  ⟨sysRuns_of (by decide +kernel) (by decide +kernel), by decide, by decide +kernel, sysRuns_of (by decide +kernel) (by decide +kernel),
   by decide +kernel, by decide +kernel, sysRuns_of (by decide +kernel) (by decide +kernel), by decide +kernel⟩

/-- The ostler's context is function 0, which `draint` holds back. -/
def sHeldBack : State := { (sOwg.modOstler 0 fun x => { x with ctx := 0 }) with vfs := sOwg.vfs.modify 0 fun f => { f with heldBack := true } }

theorem hyp_ContextWords_held : sHeldBack.sysRuns c7 (dIt sHeldBack) ∧ (dIt sHeldBack).wg = none ∧ (dIt sHeldBack).heldBack = true ∧
    ((dIt sHeldBack).s.wg? 0 0).isSome = true ∧ (dIt sHeldBack).foreign 0 = false ∧ (dIt sO).heldBack = false ∧ (dIt sOwg).heldBack = false :=
  ⟨sysRuns_of (by decide +kernel) (by decide +kernel), by decide +kernel⟩

theorem hyp_ContextWords_load : (dIt sO).reaches Config.hostBase (recBytes (hdrFields (({ launch0 with region := 0x1000 } : Launch).hdrRd (dIt sO).s))) .read
      = true ∧ failed ((dIt sO).s.xlate 0 (dIt sO).ctx Config.hbmBytes .read) = some .addr ∧
    failed ((dIt sO).s.xlate 0 (dIt sO).ctx Config.hostBase .read) = none ∧ (dIt sO).s.launchAt Config.hostBase = some { launch0 with region := 0x1000 } ∧
    (dIt sO).s.launchAt (Config.hostBase + 64) = none := by decide +kernel

theorem test_halt : ((after (.halt (op 0 (d 6) no (.imm 0))) sOwg).wg? 0 0).map (·.halted) = some true ∧
    ((after (.halt (op 0 (d 6) no (.imm 0))) sO).core 0).ostler.d.getD 6 0 = 6 := by decide +kernel

/-- d7 is a counter at 0x7000, and its limit is one above, or at, its count of 0. -/
def sQ : State := ostW (oreg 7 (BitVec.ofNat 64 (Config.hostBase + 0x7000)))
def qAcc : Access := { core := 0, slot := 8, vf := (dIt sQ).tag, scope := 2, sid := 0, cpol := 0 }

theorem hyp_ClaimsAndScrubs : sQ.Mem ∧ sQ.atRest ∧ sQ.sysRuns c7 (dIt sQ) ∧ (Instr.qclaim (op 0 (d 6) (d 7) (.imm 1))).wf = true ∧
    ((dIt sQ).src (d 7)).toNat % 8 = 0 ∧ (dIt sQ).s.xlate 0 (dIt sQ).ctx ((dIt sQ).src (d 7)).toNat .rw = .ok (Config.hostBase + 0x7000) ∧
    (dIt sQ).s.holder 0 (lineOf (Config.hostBase + 0x7000)) = none ∧ (dIt sQ).regs (Config.hostBase + 0x7000) = none ∧
    (dIt sQ).s.accPoison qAcc ((List.range 8).map (Config.hostBase + 0x7000 + ·)) = false ∧ (dIt sQ).heldBack = false ∧
    (dIt sQ).s.counterAt 0 (Config.hostBase + 0x7000) = .other ∧ sQ.frameHazards = [] ∧ sQ.ruined = [] ∧
    leNat ((List.range 8).map fun i => sQ.devByte 0 (Config.hostBase + 0x7000 + i)) < ((dIt sQ).src (.imm 1)).toNat ∧
    ((dIt sQ).src (.imm 0)).toNat ≤ leNat ((List.range 8).map fun i => sQ.devByte 0 (Config.hostBase + 0x7000 + i)) :=
  ⟨mem_of (by decide +kernel), rest_of (by decide +kernel), sysRuns_of (by decide +kernel) (by decide +kernel), by decide, by decide +kernel, ok_of (by decide +kernel),
   by decide +kernel⟩

/-- Function 1 runs nothing and has not been drained. -/
def sNotDrained : State := { sO with vfs := sO.vfs.modify 1 fun f => { f with drained := false } }

theorem hyp_ClaimsAndScrubs_scrub : argOf ((dIt sOwg).vfArg ((dIt sOwg).src (.imm 0))) = (0, 0) ∧ (Instr.draint (op 0 (d 6) (.imm 0) no)).wf = true ∧
    (dIt sOwg).s.runs 0 = true ∧ (dIt sO).s.runs 0 = false ∧ (Instr.scrub (op 0 (d 6) (.imm 0) no)).wf = true ∧ ((dIt sO).s.vf 0).drained = true ∧
    ((dIt sNotDrained).s.vf 1).drained = false := by decide +kernel

theorem test_qclaim : ((after (.qclaim (op 0 (d 6) (d 7) (.imm 1))) sQ).core 0).ostler.d.getD 6 1 = 0 ∧
    (after (.qclaim (op 0 (d 6) (d 7) (.imm 1))) sQ).mem.read (Config.hostBase + 0x7000) = 1 ∧
    ((after (.qclaim (op 0 (d 6) (d 7) (.imm 0))) sQ).core 0).ostler.d.getD 6 0 = 0xFFFF_FFFF_FFFF_FFFF := by decide +kernel

/-- Point 15 of rail 3 is 1000 mV and 2200 A, which is the limit; point 14 is 1 mA more. -/
def sPwr : State := { ostW (oreg 1 0xFF_0032 ∘ oreg 2 0x1_0001) with
  img := { up.img with opp := (up.img.opp.set 63 (BitVec.ofNat 64 (1000 + 2200 * 65536))).set 62 (BitVec.ofNat 64 (1000 + 2201 * 65536)) } }

theorem hyp_PowerWords : sPwr.sysRuns c7 (dIt sPwr) ∧ (Instr.pwrset (op 0 (d 6) (.imm 3) (.imm 15))).wf = true ∧ ((dIt sPwr).src (.imm 3)).toNat ≤ 3 ∧ ((dIt sPwr).src (.imm 15)).toNat ≤ 15 ∧ (14 : Nat) ≤ 15 ∧ ¬ ((3 : Nat) = 3 ∧ (14 : Nat) = 15) ∧
    (Instr.strset (op 0 (d 6) (.imm 63) (d 1))).wf = true ∧ ((dIt sPwr).src (d 1)).toNat < 2 ^ 24 ∧ 1 ≤ ((dIt sPwr).src (d 1)).toNat / 2 ^ 16 ∧
    1 ≤ ((dIt sPwr).src (d 1)).toNat % 256 ∧ ((dIt sPwr).src (d 1)).toNat % 256 ≤ 50 ∧ 63 < ((dIt sPwr).src (.imm 64)).toNat :=
  ⟨sysRuns_of (by decide +kernel) (by decide +kernel), by decide +kernel⟩

/-- Strings 1 to 3 are gated, held, and busy. -/
def sGate : State := { sOwg with
  strings := ((sOwg.strings.modify 1 fun t => { t with gate := .gated }).modify 2 fun t => { t with hold := true }) }

theorem hyp_PowerWords_gate : sGate.sysRuns c7 (dIt sGate) ∧ (Instr.gateNow (op 0 (d 6) (.imm 63) no)).wf = true ∧
    ((dIt sGate).s.string 63).gate = .awake ∧ ((dIt sGate).s.string 63).hold = false ∧ (dIt sGate).core / 4 ≠ 63 ∧
    (dIt sGate).s.stringIdle 63 = true ∧
    ((dIt sGate).s.string 2).gate = .awake ∧ ((dIt sGate).s.string 2).hold = true ∧ (dIt sGate).core / 4 = 0 ∧
    ((dIt sGate).s.string 1).gate = .gated ∧ (Instr.gateWake (op 1 (d 6) (.imm 1) no)).wf = true ∧ (Instr.gateHold (op 2 (d 6) (.imm 1) no)).wf = true ∧
    (Instr.gateAuto (op 3 (d 6) (.imm 1) no)).wf = true ∧ 63 < ((dIt sGate).src (.imm 64)).toNat :=
  ⟨sysRuns_of (by decide +kernel) (by decide +kernel), by decide +kernel⟩

theorem hyp_RootOfTrust : sO.sysRuns c7 (dIt sO) ∧ (Instr.rtcallMeasure (op 0 (d 6) (d 2) (.imm 0))).wf = true ∧
    (dIt sO).s.rtPinned (dIt sO).core ((dIt sO).src (d 2)).toNat ((dIt sO).src (.imm 0)).toNat = none ∧
    (Instr.rtcallVerify (op 0 (d 6) (d 2) (.imm 1))).wf = true ∧ (Instr.rtcallQuote (op 0 (d 6) (d 2) (.imm 2))).wf = true ∧
    (Instr.rtcallMarginSignature (op 0 (d 6) (d 2) (.imm 2))).wf = true ∧ (Config.hostBase + 0x7000) % 64 = 0 ∧
    sO.rangeFail (Config.hostBase + 0x7000) 64 = 0 ∧ (sO.request 0 (Config.hostBase + 0x7000)).bad (Config.hostBase + 0x7000) = false ∧
    sO.rangeFail (sO.request 0 (Config.hostBase + 0x7000)).inAddr (sO.request 0 (Config.hostBase + 0x7000)).inLen = 0 ∧ sO.frameHazards = [] ∧ sO.ruined = [] ∧ up.up = true ∧
    State.reset.up = false ∧ State.reset.brickd = false :=
  ⟨sysRuns_of (by decide +kernel) (by decide +kernel), by decide +kernel⟩

/-! Events -/

/-- Line 7 of host memory is dirty in core 1's L1, and function 0's warp and driver wait for it. -/
def pinLine : L1Line := { line := 7, data := List.replicate 64 0, dirty := 1, streams := 1, poison := false, vf := 0, owners := 1 }
def sPin : State :=
  let s : State := { up with clock := 3500000 }
  (s.setSlot 0 0 (some { up.openWg true with
    deadline := some 3500000
    drv := { (up.openWg true).drv with block := .pin 7 448 1750000 }
    warps := (up.openWg true).warps.map fun x => { x with block := .pin 7 448 1750000 } })).modCore 1 fun co => { co with l1 := [pinLine] }
/-- The gang of leader 4 alone waits. -/
def sPinGang : State := sPin.modWarp 0 0 0 fun x => { x with block := .none, waits := [{ leader := 4, held := true, kind := .pin 7 448 1750000 }] }

theorem hyp_WorkgroupEvents_gang : (((sPinGang.wg? 0 0).getD default).warps[0]?).isSome = true ∧
    (((sPinGang.wg? 0 0).getD default).warps.getD 0 default).block = .none ∧
    (((sPinGang.wg? 0 0).getD default).warps.getD 0 default).waits = [{ leader := 4, held := true, kind := .pin 7 448 1750000 }] ∧
    (4 : Nat) < 8 ∧ sPinGang.holder 0 7 = some 1 := by decide +kernel

/-- A warp that has been ready, and not chosen, since the beginning. -/
def sStarve : State := { warpS id with clock := 3500000 }

theorem hyp_WorkgroupEvents : (sPin.wg? 0 0).isSome = true ∧ ((sPin.wg? 0 0).getD default).halted = false ∧
    ((sPin.wg? 0 0).getD default).drv.block = .pin 7 448 1750000 ∧ 1750000 + sPin.pinwait * 1750 ≤ sPin.clock ∧ sPin.holder 0 7 = some 1 ∧
    (((sPin.wg? 0 0).getD default).warps[0]?).isSome = true ∧
    (((sPin.wg? 0 0).getD default).warps.getD 0 default).block = .pin 7 448 1750000 ∧
    ((sPin.wg? 0 0).getD default).deadline = some 3500000 ∧ 3500000 ≤ sPin.wtime ((sPin.wg? 0 0).getD default) ∧
    (((sStarve.wg? 0 0).getD default).warps.getD 0 default).starving sStarve.clock = true ∧
    (((s0.wg? 0 0).getD default).warps.getD 0 default).starving s0.clock = false ∧
    ({ up.openWg true with deadline := some 1 } : Workgroup).deadline = some 1 ∧ up.wtime { up.openWg true with deadline := some 1 } < 1 := by
  decide +kernel

/-- String 0 has passes on one core of four, string 1 gates, string 2 wakes, string 3 has been idle for 50 µs. -/
def sStr : State := { up with
  clock := 87500
  cores := up.cores.modify 0 fun co => { co with passes := 2 }
  strings := (up.strings.modify 1 fun t => { t with gate := .gating true }).modify 2 fun t => { t with gate := .waking 87500 } }

theorem hyp_StringEvents : (sStr.strings[0]?).isSome = true ∧ sStr.beatDue 0 = true ∧
    (((stringCores 0).filter fun c => !(sStr.core c).lost).filter fun c => (sStr.core c).passes != 0) = [0] ∧ 0 < sStr.cores.length ∧
    (sStr.string 3).gate = .awake ∧ (sStr.string 3).hold = false ∧ (sStr.string 3).idleSince + 87500 ≤ sStr.clock ∧ sStr.stringIdle 3 = true ∧
    (sStr.string 1).gate = .gating true ∧ (sStr.string 2).gate = .waking 87500 := by decide +kernel

/-- Rail 2 has a hold that ends now, rail 0 a ramp that ends now; in the second state later. -/
def sRail (t : Nat) : State := { up with
  rails := [{ Rail.reset with ramp := some t }, Rail.reset, { Rail.reset with hold := some t }, Rail.reset] }

theorem hyp_RailsAndCycles : up.rails[2]? = some Rail.reset ∧ Rail.reset.ramp = none ∧ (up.strings[63]?).isSome = true ∧
    (sRail 0).rails[2]? = some { Rail.reset with hold := some 0 } ∧ 0 ≤ (sRail 0).clock ∧ (sRail 1).clock < 1 ∧
    (sRail 0).rails[0]? = some { Rail.reset with ramp := some 0 } ∧ (255 : Nat) < up.cores.length ∧ (up.core 255).lost = false ∧
    ((up.modCore 255 fun co => { co with lost := true }).core 255).lost = true := by decide +kernel

/-- Function 0 has queues at 0x6000, of which queue 0 has 8 entries and head 0. -/
def sFun : State := { wld with
  mem := wld.mem.writeList (Config.hostBase + 0x6008) [8], vfs := wld.vfs.modify 0 fun f => { f with qtab := 0x6000 } }
def sPause : State := sFun.modVf 0 fun f => { f with pause := true }

theorem hyp_FunctionEvents : (sFun.vfs[0]?).isSome = true ∧ (sFun.vf 0).flr = false ∧ ((sFun.vf 0).queue 0).stopped = false ∧
    0 < (sFun.vf 0).queues.length ∧ sFun.queueFail 0 (sFun.queueVa 0 0) 32 = none ∧
    sFun.dev 0 (sFun.queueVa 0 0 + 16) 8 = 0 ∧ sFun.dev 0 (sFun.queueVa 0 0 + 8) 4 = 8 ∧
    ((8 : W32) - BitVec.ofNat 32 0).toNat ≤ 8 ∧ (sFun.vf 0).pause = false ∧ (sPause.vf 0).pause = true ∧ (sPause.vf 0).flr = false ∧
    sPause.paused 0 = true ∧ sFun.paused 0 = false ∧ sPause.queueFail 0 (sPause.queueVa 0 0) 32 = none ∧
    sPause.dev 0 (sPause.queueVa 0 0 + 16) 8 = 0 ∧ sPause.dev 0 (sPause.queueVa 0 0 + 8) 4 = 8 ∧
    ((sFun.modVf 0 fun f => { f with flr := true }).vf 0).flr = true ∧
    (((sFun.modVf 0 fun f => { f with queues := f.queues.modify 0 fun q => { q with stopped := true } }).vf 0).queue 0).stopped = true := by
  decide +kernel

theorem hyp_FunctionEvents_stop : (0 : Nat) < 16 ∧ (8 : Nat) ≠ 0 ∧ 8 < ((9 : W32) - BitVec.ofNat 32 0).toNat ∧ sPause.queueFail 0 (sPause.queueVa 0 0) 32 = none := by
  decide +kernel

theorem test_notify : ((after (.queueNotify 0 0 8) sFun).vf 0).queues.map (·.tail) = 8 :: List.replicate 15 0 ∧
    ((after (.queueNotify 0 0 9) sFun).vf 0).queues.map (·.tail) = List.replicate 16 0 := by decide +kernel

/-- Port 17 keeps flit 5, and has replayed it 15 times; port 0 keeps it too. -/
def sPort : State := { up with
  ports := (up.ports.modify 17 fun p => { p with buffer := [(5, [1])], replaying := 5, replays := 15 }).modify 0 fun p =>
    { p with buffer := [(5, [1])] } }

theorem hyp_LinkEvents : up.Mem ∧ up.frameHazards = [] ∧ up.ruined = [] ∧ (accessRange (.read (Config.hbmBytes - 8) 8)).1 + (accessRange (.read (Config.hbmBytes - 8) 8)).2 ≤ Config.hbmBytes ∧
    Config.hostBase ≤ (accessRange (.write Config.hostBase [1] false)).1 ∧ (accessRange (.read Config.tierBase 1)).2 ≠ 0 ∧
    populated (accessRange (.read Config.tierBase 1)).1 = true ∧
    Config.hbmBytes < (accessRange (.read (Config.hbmBytes - 7) 8)).1 + (accessRange (.read (Config.hbmBytes - 7) 8)).2 ∧
    (sPort.ports[17]?).isSome = true ∧ (sPort.ports.getD 17 Port.reset).down = false ∧ (sPort.ports.getD 0 Port.reset).down = false ∧
    5 ∈ (sPort.ports.getD 17 Port.reset).buffer.map (·.1) ∧ (sPort.ports.getD 17 Port.reset).replaying = 5 ∧
    (sPort.ports.getD 17 Port.reset).replays = 15 ∧ 5 ∈ (sPort.ports.getD 0 Port.reset).buffer.map (·.1) ∧
    (sPort.ports.getD 0 Port.reset).replays < 15 ∧ (s0.wg? 0 0).isSome = true ∧
    isBucket (.read 0 8) = false ∧ isBucket (.bar 0 0x8_0000 64) = false ∧ isBucket (.write Config.hostBase [1] false) = false ∧
    (accessRange (.bar 0 0x8_0000 64)).1 + (accessRange (.bar 0 0x8_0000 64)).2 ≤ Config.hbmBytes ∧
    (accessRange (.bucket 0 [] 0 0)).2 ≠ 0 ∧ populated (accessRange (.bucket 0 [] 0 0)).1 = true ∧
    (rangeLines 0 1536).any up.poison.contains = false :=
  ⟨mem_of (by decide +kernel), by decide +kernel⟩

/-- The host reads REFILL's string's PASSES, and QTAB of virtual function 0. -/
theorem test_bar : (after (.hostCxlMemAccess (.bar 0 (0x8_0000 + 64 * 3) 8))
      { up with strings := up.strings.modify 3 fun t => { t with nPasses := 0x0102 } }).hostData = [2, 1, 0, 0, 0, 0, 0, 0] ∧
    (after (.hostCxlMemAccess (.bar 1 0 8)) sFun).hostData = [0, 0x60, 0, 0, 0, 0, 0, 0] := by decide +kernel

/-! A step -/

def wordNop : W96 := 0x0000_0000_0000_0000_0007_0000
def wordDend : W96 := (encode (.dend (op 0 no no no))).getD 0
def wordGate : W96 := (encode (.gateNow (op 0 (d 6) (.imm 63) no))).getD 0
def sNop : State := State.reset.withWord wordNop
def sDend : State := State.reset.withWord wordDend
def sGateNow : State := State.reset.withWord wordGate

def quietCycle (s : State) : Bool :=
  s.regQueue.isEmpty && s.upsets.isEmpty && s.inputs.isEmpty && s.dueEvent.isNone && s.sleeper.isNone && !s.brickd && s.up && s.coreRuns 0
/-- What an event runs, if it runs an instruction, and whether it only changes the state. -/
def runs : Option Act → Option Instr
  | some (.run i _) => some i
  | _ => none
def isDone : Option Act → Bool
  | some (.done _) => true
  | _ => false

theorem hyp_StepRunsDecoded : sNop.brickd = false ∧ sNop.up = true ∧ quietCycle sNop = true ∧
    (({ sNop with inputs := [.coreLoss 3] } : State).inputs = .coreLoss 3 :: []) ∧ fromOutside (.coreLoss 3) = true ∧
    (sRail 0).inputs = [] ∧ (sRail 0).upsets = [] ∧ runs (sRail 0).dueEvent = some (.operatingPointReached 0) ∧ (sRail 0).up = true ∧
    (({ sNop with upsets := [.l2 3] } : State).upsets = .l2 3 :: []) := by decide +kernel

theorem hyp_StepRunsDecoded_warp : ((sNop.choices 0).map fun x => (x.1, x.2.1, x.2.2.slot, x.2.2.w, x.2.2.wp.rep.active)) = some (0, true, 0, 0, false) ∧
    ((sNop.choices 0).bind fun x => x.2.2.wp.pick).map (·.pc) = some 0 ∧
    (List.range 1).all (fun w => (sNop.lockOf 0 ((sNop.wg? 0 0).getD default) (((sNop.wg? 0 0).getD default).warps.getD w default)
      (((((sNop.wg? 0 0).getD default).warps.getD w default).pick).getD default)).isNone) = true ∧
    (sNop.translate 0 0 0 .fetch).toOption = some Config.hostBase ∧ (decodeBytes (sNop.mem.bytes Config.hostBase 12)).toOption =
      some (.nop { op 0 no no no with ctl := { grd := 7, stl := 0, yld := 0, ru := 0 } }) ∧
    (warpCtl (.nop (op 0 no no no))).isSome = true := by decide +kernel

/-- The gang of lanes 0 to 15 waits on the decision queue for v255; the other's `mov` at 12 reads v255. -/
def sLock : State := (((State.reset.withWord ((encode (.dqpop oPop)).getD 0)).modWarp 0 0 0 fun w =>
  { w with pcs := (List.range 32).map fun L => if L < 16 then 0 else 12, leaders := [0, 0, 0, 0, 4, 4, 4, 4]
           waits := [{ leader := 0, held := true, kind := .dqpop }] }))
def sLocked : State := { sLock with
  mem := sLock.mem.writeList (Config.hostBase + 12) (leBytes 12 ((encode (.mov (op 0 (v 1) (v 255) no))).getD 0).toNat) }

theorem hyp_StepRunsDecoded_lock : ((sLocked.choices 0).map fun x => (x.2.2.slot, x.2.2.w)) = some (0, 0) ∧
    ((sLocked.choices 0).bind fun x => x.2.2.wp.pick).map (·.leader) = some 4 ∧
    (sLocked.choices 0).bind (fun x => x.2.2.wp.pick.bind (sLocked.lockOf 0 ((sLocked.wg? 0 0).getD default) x.2.2.wp)) = some 0 ∧
    (sLock.choices 0).bind (fun x => x.2.2.wp.pick.bind (sLock.lockOf 0 ((sLock.wg? 0 0).getD default) x.2.2.wp)) = none ∧
    quietCycle sLocked = true := by decide +kernel

theorem hyp_StepRunsDecoded_driver : quietCycle sDend = true ∧ (sDend.choices 0).isNone = true ∧
    (sDend.core 0).feAt ≠ sDend.clock + 1 ∧ sDend.ostlerReady 0 = false ∧ sDend.chosenDriver 0 = some 0 ∧
    (sDend.translate 0 0 0 .fetch).toOption = some Config.hostBase ∧
    (decodeBytes (sDend.mem.bytes Config.hostBase 12)).toOption = some (.dend (op 0 no no no)) ∧
    (warpCtl (.dend (op 0 no no no))).isNone = true ∧ (sysOf (.dend (op 0 no no no))).isNone = true := by decide +kernel

theorem hyp_StepRunsDecoded_ostler : quietCycle sGateNow = true ∧ (sGateNow.choices 0).isNone = true ∧
    (sGateNow.core 0).feAt ≠ sGateNow.clock + 1 ∧ sGateNow.ostlerReady 0 = true ∧ (sGateNow.core 0).feOstler = false ∧
    populated (sGateNow.core 0).ostler.pc.toNat = true ∧ populated ((sGateNow.core 0).ostler.pc.toNat + 11) = true ∧
    (decodeBytes (sGateNow.mem.bytes (sGateNow.core 0).ostler.pc.toNat 12)).toOption = some (.gateNow (op 0 (d 6) (.imm 63) no)) ∧
    (∀ b, b < sGateNow.cores.length → 0 < b → sGateNow.runCore b = none) := by
  decide +kernel

/-- A store that has left an L1 for a register. -/
theorem hyp_StepRunsDecoded_registers : ({ sNop with regQueue := [(0, [1])] } : State).regQueue ≠ [] ∧ sNop.brickd = false := by decide +kernel

/-- Every agent of a workgroup has trapped in the cycle; or a halted one's TIMER is due. -/
def sLate : State := { warpS fun g => { g with trapping := [(0, userTrap)] } with clock := 1 }
def sTimer : State := { warpS fun g => { g with halted := true, deadline := some 0 } with clock := 1 }
def coresRest (s : State) : Bool :=
  s.regQueue.isEmpty && s.upsets.isEmpty && s.inputs.isEmpty && s.dueEvent.isNone && s.sleeper.isNone && !s.brickd && s.up &&
    (List.range s.cores.length).all fun c => (s.runCore c).isNone
theorem hyp_StepRunsDecoded_late : coresRest sLate = true ∧ isDone sLate.lateEvent = true ∧ coresRest sTimer = true ∧
    runs sTimer.lateEvent = some (.timerDeadline 0 0) := by decide +kernel

/-- A step goes on. -/
def goes (s : State) : Bool := match step s with | .next _ => true | _ => false

theorem hyp_StepKeepsMemory : sNop.Mem ∧ goes sNop = true := ⟨mem_of (by decide +kernel), by decide +kernel⟩
theorem hyp_StepKeepsRegisters : sDend.Regs ∧ goes sDend = true := ⟨regs_of (by decide +kernel), by decide +kernel⟩

theorem test_step_nop : (match step sNop with | .next t => (warp0 t).pcOf 31 | _ => 0) = 12 := by decide +kernel

end Sys2Proof.Tests
end

section
/-!
PROOFS. Words of the warp stream that write a predicate, move a value, or write an index register (R100, R103, R108, R110, R113 to
R115): what the writes of a predicate and of an index register do lane by lane, how a settled warp reads both, and the statements
about these words.
-/
namespace Sys2Proof.Machine

/-! The words and their meanings -/

theorem exec_isetp (o : Op3) (s : State) : exec (.isetp o) s = execIsetp o s := rfl
theorem exec_fsetp (o : Op3) (s : State) : exec (.fsetp o) s = execFsetp o s := rfl
theorem exec_plop (o : Op3) (s : State) : exec (.plop o) s = execPlop o s := rfl
theorem exec_vote (o : Op3) (s : State) : exec (.vote o) s = execVote o s := rfl
theorem exec_sel (o : Op3) (s : State) : exec (.sel o) s = execSel o s := rfl
theorem exec_mov (o : Op3) (s : State) : exec (.mov o) s = execMov o s := rfl
theorem exec_movi (o : OpL) (s : State) : exec (.movi o) s = execMovi o s := rfl
theorem exec_xset (o : Op3) (s : State) : exec (.xset o) s = execXset o s := rfl
theorem exec_xadd (o : Op3) (s : State) : exec (.xadd o) s = execXadd o s := rfl
theorem exec_xwin (o : Op3) (s : State) : exec (.xwin o) s = execXwin o s := rfl

/-! Lane masks -/

/-- The sum that `maskOf` takes over the first n lanes has the chosen bits, and none from n up. -/
theorem testBit_maskSum (p : Nat → Bool) (n L : Nat) :
    ((List.range n).foldl (fun a M => if p M then a + 2 ^ M else a) 0).testBit L = (decide (L < n) && p L) := by
  induction n generalizing L with
  | zero => simp
  | succ n ih =>
    have hlt : (List.range n).foldl (fun a M => if p M then a + 2 ^ M else a) 0 < 2 ^ n :=
      Nat.lt_pow_two_of_testBit _ fun i hi => by simp [ih, Nat.not_lt.2 hi]
    rw [List.range_succ, List.foldl_append, List.foldl_cons, List.foldl_nil]
    -- adding 2^n to a number below 2^n sets bit n alone
    have hor := Nat.two_pow_add_eq_or_of_lt hlt 1
    rw [Nat.mul_one, Nat.add_comm] at hor
    by_cases h : n = L
    · subst h
      cases hp : p n with
      | true => simp [hor, ih]
      | false => simp [ih]
    · have hlt' : L < n + 1 ↔ L < n := by omega
      cases hp : p n with
      | true => simp [hor, ih, h, hlt']
      | false => simp [ih, hlt']

@[simp] theorem laneBit_maskOf (p : Nat → Bool) {L : Nat} (hL : L < 32) : laneBit (maskOf p) L = p L := by
  rw [laneBit, maskOf, BitVec.getLsbD_ofNat, testBit_maskSum]
  simp [hL]

/-! Writes of a predicate and of an index register -/

/-- A lane of a predicate after a write of D: predicates 0 to 6 are the warp's own, and p7 and class 5 discard. -/
theorem plane_putP (w : Warp) (o : Opnd) (act : W32) (val : Nat → Bool) {n L : Nat} (hp : w.p.length = 7) (hn : n < 7) (hL : L < 32) :
    (w.putP o act val).plane n L = if laneBit act L && o == .pred (BitVec.ofNat 3 n) then val L else w.plane n L := by
  cases o with
  | pred m =>
    have hm : m = BitVec.ofNat 3 n ↔ m.toNat = n := by
      rw [← BitVec.toNat_inj, BitVec.toNat_ofNat, Nat.mod_eq_of_lt (by omega)]
    simp only [Warp.plane, Warp.putP, List.getD_eq_getElem?_getD, List.getElem?_modify, List.getElem?_eq_getElem (hp ▸ hn)]
    by_cases h : m.toNat = n
    · subst h
      simp [hL]
    · simp [h, hm]
  | _ => simp [Warp.putP]

/-- A write of a predicate changes predicates only. -/
theorem putP_eq (w : Warp) (o : Opnd) (act : W32) (val : Nat → Bool) :
    w.putP o act val = { w with p := (w.putP o act val).p } := by
  cases o <;> rfl

/-- A lane of an index register after a write of one. -/
theorem xlane_setX (w : Warp) (m : Nat) (act : W32) (val : Nat → W16) {n L : Nat} (hn : n < w.x.length) (hL : L < 32) :
    (w.setX m act val).xlane n L = if laneBit act L && n == m then val L else w.xlane n L := by
  simp only [Warp.xlane, Warp.setX, List.getD_eq_getElem?_getD, List.getElem?_modify, List.getElem?_eq_getElem hn]
  by_cases h : m = n
  · simp [h, hL]
  · simp [h, Ne.symm h]

/-! Reads of a settled warp -/

/-- A settled warp reads a predicate operand as it stands (R83). -/
theorem Issue.pred_settled {it : Issue} (h : it.settled = true) (i : Nat) (o : Opnd) (L : Nat) :
    it.pred i o L = predHolds it.wp o L := by
  cases o with
  | pred n =>
    have h7 : (n.toNat == 7) = decide (n = 7) := by
      rw [Bool.eq_iff_iff, beq_iff_eq, decide_eq_true_iff, ← BitVec.toNat_inj]; rfl
    simp [Issue.pred, Issue.settled_early h, predHolds, Warp.predBit, Warp.plane, h7]
  | _ => rfl

/-- A settled warp reads an index register as it stands. -/
theorem Issue.index_settled {it : Issue} (h : it.settled = true) (i n L : Nat) : it.index i n L = (it.wp.xlane n L).toNat := by
  simp [Issue.index, Issue.settled_early h, Warp.xlane]

/-! Checks of operands -/

theorem badOpnd_of_regTrap {it : Issue} {i k : Nat} {o : Opnd} {os : List (Nat × Opnd × Nat)}
    (h : it.regTrap ((i, o, k) :: os) = none) : it.badOpnd i o k = none := by
  cases hb : it.badOpnd i o k with
  | none => rfl
  | some n => simp [Issue.regTrap, hb] at h

/-- A predicate operand names no v register that could be out of bounds. -/
theorem regTrap_isPred {it : Issue} {i k : Nat} {o : Opnd} (h : o.isPred = true) : it.regTrap [(i, o, k)] = none := by
  have hn (S : Nat) : it.regNo i o S = none := by
    cases o with
    | pred _ | zero => rfl
    | _ => simp [Opnd.isPred] at h
  simp [Issue.regTrap, Issue.badOpnd, hn]

/-! The end of a word that writes a predicate or an index register -/

/-- What `finish` leaves of the warp where the word sets no flag. -/
theorem goes_still_noFlags {it : Issue} {clock : Nat} {c : Ctl} {f : Fin} {w : Warp} (hf : f.flags = 0) :
    (it.goes clock c f w).still = (f.upd (it.advance f w)).still := by
  rw [goes_still, hf]
  simp [Warp.still]

/-- The end of a word that only writes predicate D: the counterpart of `finish_writesV`. -/
theorem finish_writesP {s : State} {it : Issue} {c : Ctl} (hr : s.warpRuns c it) (d : Opnd) (val : Nat → Bool) (f : Fin)
    (hu : ∀ w, f.upd w = w.putP d it.act val) (hf : f.flags = 0) (hn : f.next = none) (hs : f.stay = false) :
    it.writesP d val (it.finish it.s c f) := by
  obtain ⟨hi, -, hset⟩ := hr
  obtain ⟨-, hp, -, -⟩ := Warp.wf_parts (Issue.settled_wf hset)
  refine ⟨_, Issue.settled_finish hi hset f, goes_advanced hn hs (by intro w; rw [hu, putP_eq]), ?_, ?_⟩
  · intro n L hn7 hL
    have := plane_putP (it.advance f it.wp) d it.act val (by rw [advance_eq]; exact hp) hn7 hL
    rw [Warp.plane, goes_p, hu, ← Warp.plane, this, advance_eq]
    rfl
  · rw [goes_still_noFlags hf, goes_p, hu, putP_eq, advance_eq]
    rfl

/-- The end of a word that only writes an index register: the counterpart of `finish_writesV`. -/
theorem finish_writesX {s : State} {it : Issue} {c : Ctl} (hr : s.warpRuns c it) (m : Nat) (val : Nat → W16) (f : Fin)
    (hu : ∀ w, f.upd w = w.setX m it.act val) (hf : f.flags = 0) (hn : f.next = none) (hs : f.stay = false) :
    it.writesX m val (it.finish it.s c f) := by
  obtain ⟨hi, -, hset⟩ := hr
  obtain ⟨-, -, hx, -⟩ := Warp.wf_parts (Issue.settled_wf hset)
  refine ⟨_, Issue.settled_finish hi hset f, goes_advanced hn hs (by intro w; rw [hu]; rfl), ?_, ?_⟩
  · intro n L hn8 hL
    have := xlane_setX (it.advance f it.wp) m it.act val (n := n) (by rw [advance_eq]; exact hx ▸ hn8) hL
    rw [Warp.xlane, goes_x, hu, ← Warp.xlane, this, advance_eq]
    rfl
  · rw [goes_still_noFlags hf, goes_x, hu, advance_eq]
    rfl

/-! Comparisons -/

theorem tyImm_eq_typedImm (o : Op3) : tyImm o = typedImm o := by simp [tyImm, typedImm]

theorem intOf_eq_asInt (typ : Nat) (x : W32) : intOf typ x = asInt typ x := by simp [intOf, asInt]

theorem condInt_eq_compared (cond : Nat) (a b : Int) : condInt cond a b = compared cond a b := by
  match cond with
  | 0 | 1 | 2 | 3 | 4 => simp [condInt, compared, Bool.beq_eq_decide_eq, bne]
  | n + 5 => simp [condInt, compared]

/-- The conditions of R103 fit in three bits; the eighth holds of a NaN alone. -/
theorem condF32_eq_fcompared (cond : Nat) (a b : W32) (h : cond < 8) : condF32 cond a b = fcompared cond (f32 a) (f32 b) := by
  dsimp only [condF32, fcompared]
  generalize ((f32 a).isNan || (f32 b).isNan) = n
  match cond with
  | 0 | 1 | 2 | 3 | 4 | 5 | 6 | 7 => cases n <;> simp
  | k + 8 => omega

/-- A comparison whose sources pass their checks writes its result to predicate D. -/
theorem predOp_writes {s : State} {it : Issue} (o : Op3) (cls : Nat) (a b : Imm) (f : W32 → W32 → Bool) (hr : s.warpRuns o.ctl it)
    (hb : it.regTrap [(1, o.a, 1), (2, o.b, 1)] = none) :
    ∃ t, predOp o cls a b f s = .next t ∧ it.writesP o.d (fun L => f (it.src 1 o.a a 0 L) (it.src 2 o.b b 0 L)) t := by
  unfold predOp
  rw [warpWord_runs hr]
  simp only [Issue.stallTrap_settled hr.2.2, hb]
  exact ⟨_, rfl, finish_writesP hr o.d _ _ (fun _ => rfl) rfl rfl rfl⟩

theorem isetp_writes {s : State} {it : Issue} (o : Op3) (hr : s.warpRuns o.ctl it)
    (hb : it.regTrap [(1, o.a, 1), (2, o.b, 1)] = none) :
    ∃ t, exec (.isetp o) s = .next t ∧
      it.writesP o.d (fun L => compared o.cond (asInt o.typ (it.src 1 o.a (typedImm o) 0 L))
        (asInt o.typ (it.src 2 o.b (typedImm o) 0 L))) t := by
  rw [exec_isetp, execIsetp]
  simpa only [tyImm_eq_typedImm, condInt_eq_compared, intOf_eq_asInt] using
    predOp_writes o 1 (tyImm o) (tyImm o) (fun a b => condInt o.cond (intOf o.typ a) (intOf o.typ b)) hr hb

theorem fsetp_writes {s : State} {it : Issue} (o : Op3) (hr : s.warpRuns o.ctl it)
    (hb : it.regTrap [(1, o.a, 1), (2, o.b, 1)] = none) :
    ∃ t, exec (.fsetp o) s = .next t ∧
      it.writesP o.d (fun L => fcompared o.cond (f32 (modA o (it.src 1 o.a .f32 0 L))) (f32 (modB o (it.src 2 o.b .f32 0 L)))) t := by
  have hc : o.cond < 8 := Nat.mod_lt _ (by decide)
  rw [exec_fsetp, execFsetp]
  simpa only [condF32_eq_fcompared _ _ _ hc] using
    predOp_writes o 5 .f32 .f32 (fun a b => condF32 o.cond (modA o a) (modB o b)) hr hb

/-! Predicate logic and votes -/

theorem plop_writes {s : State} {it : Issue} (o : Op3) (hr : s.warpRuns o.ctl it) :
    ∃ t, exec (.plop o) s = .next t ∧
      it.writesP o.d (fun L => o.var.getLsbD (2 * (predHolds it.wp o.a L).toNat + (predHolds it.wp o.b L).toNat)) t := by
  rw [exec_plop, execPlop, warpWord_runs hr]
  simp only [Issue.stallTrap_settled hr.2.2]
  refine ⟨_, rfl, finish_writesP hr o.d _ _ (fun w => ?_) rfl rfl rfl⟩
  -- the two predicates as a number, high bit first
  have hv (p q : Bool) : (if p then 2 else 0) + (if q then 1 else 0) = 2 * p.toNat + q.toNat := by cases p <;> cases q <;> rfl
  simp only [Issue.pred_settled hr.2.2, hv]

theorem vote_writesP {s : State} {it : Issue} (o : Op3) (hr : s.warpRuns o.ctl it) (hd : o.d.isPred = true)
    (hm : o.var.toNat % 4 ≠ 3) :
    ∃ t, exec (.vote o) s = .next t ∧
      it.writesP o.d (fun _ =>
        let q (M : Nat) : Bool := predHolds it.wp o.a M != o.var.getLsbD 2
        let all := (lanesOf it.act).all q
        let some' := (lanesOf it.act).any q
        if o.var.toNat % 4 = 0 then all else if o.var.toNat % 4 = 1 then some' else all || !some') t := by
  rw [exec_vote, execVote, warpWord_runs hr]
  simp only [Issue.stallTrap_settled hr.2.2, regTrap_isPred hd, Issue.pred_settled hr.2.2]
  refine ⟨_, rfl, finish_writesP hr o.d _ _ (fun w => ?_) rfl rfl rfl⟩
  have hlt : o.var.toNat % 4 < 4 := Nat.mod_lt _ (by decide)
  obtain h | h | h : o.var.toNat % 4 = 0 ∨ o.var.toNat % 4 = 1 ∨ o.var.toNat % 4 = 2 := by omega
  all_goals simp [h]

theorem vote_wf_isPred {o : Op3} (h : (Instr.vote o).wf = true) (hm : o.var.toNat % 4 ≠ 3) : o.d.isPred = true := by
  simp only [Instr.wf, Bool.and_eq_true] at h
  simpa [hm] using h.2

/-- Settles O7: each word reaches its end, where it writes predicate D, with the value that its rule gives. -/
theorem predicateWords : Obligations.PredicateWords := by
  intro s o it hr
  exact ⟨fun _ hb => isetp_writes o hr hb, fun _ hb => fsetp_writes o hr hb, fun _ => plop_writes o hr,
    fun hwf hm => vote_writesP o hr (vote_wf_isPred hwf hm) hm⟩

/-! Moves -/

theorem sel_writes {s : State} {it : Issue} (o : Op3) (hr : s.warpRuns o.ctl it) (hd : o.d.isDest = true)
    (hb : it.regTrap [(0, o.d, 1), (1, o.a, 1), (2, o.b, 1)] = none) :
    ∃ t, exec (.sel o) s = .next t ∧
      it.writesV o.d (fun L => if predHolds it.wp (.pred (BitVec.ofNat 3 (o.xt.toNat % 8))) L != o.xtBit 3
        then it.src 1 o.a .sx 0 L else it.src 2 o.b .sx 0 L) 0 t := by
  rw [exec_sel, execSel, warpWord_runs hr]
  simp only [Issue.stallTrap_settled hr.2.2, hb, Issue.pred_settled hr.2.2]
  exact ⟨_, rfl, finish_writesV hr o.d _ _ hd (badOpnd_of_regTrap hb) rfl rfl rfl⟩

/-- `mov` to a v register or to none: a predicate source gives 1 or 0. -/
theorem mov_writesV {s : State} {it : Issue} (o : Op3) (hr : s.warpRuns o.ctl it) (hd : o.d.isDest = true)
    (hb : it.regTrap [(0, o.d, 1), (1, o.a, 1)] = none) :
    ∃ t, exec (.mov o) s = .next t ∧
      it.writesV o.d (fun L => if (match o.a with | .pred _ => true | _ => false) then (if predHolds it.wp o.a L then 1 else 0)
        else it.src 1 o.a .sx 0 L) 0 t := by
  rw [exec_mov, execMov, warpWord_runs hr]
  simp only [Issue.stallTrap_settled hr.2.2, hb, Issue.pred_settled hr.2.2]
  split
  next m hm => simp [hm, Opnd.isDest, Opnd.isDestReg] at hd
  next =>
    refine ⟨_, rfl, finish_writesV hr o.d _ _ hd (badOpnd_of_regTrap hb) (congrArg (it.putD o.d 0) (funext fun L => ?_)) rfl rfl⟩
    cases o.a <;> rfl

/-- `mov` to a predicate: a register source gives whether it is nonzero. -/
theorem mov_writesP {s : State} {it : Issue} (o : Op3) {n : BitVec 3} (hr : s.warpRuns o.ctl it) (hd : o.d = .pred n)
    (hb : it.regTrap [(0, o.d, 1), (1, o.a, 1)] = none) :
    ∃ t, exec (.mov o) s = .next t ∧
      it.writesP o.d (fun L => if (match o.a with | .pred _ => true | _ => false) then predHolds it.wp o.a L
        else it.src 1 o.a .sx 0 L ≠ 0) t := by
  rw [exec_mov, execMov, warpWord_runs hr]
  simp only [Issue.stallTrap_settled hr.2.2, hb, Issue.pred_settled hr.2.2]
  split
  next =>
    refine ⟨_, rfl, finish_writesP hr o.d _ _ (fun w => congrArg (w.putP o.d it.act) (funext fun L => ?_)) rfl rfl rfl⟩
    cases o.a with
    | pred m => cases predHolds it.wp (.pred m) L <;> rfl
    | _ => simp [bne, Bool.beq_eq_decide_eq]
  next hne => exact absurd hd (hne n)

theorem movi_writes {s : State} {it : Issue} (o : OpL) (hr : s.warpRuns o.ctl it) (hd : o.d.isDest = true)
    (hb : it.regTrap [(0, o.d, 1)] = none) :
    ∃ t, exec (.movi o) s = .next t ∧ it.writesV o.d (fun _ => o.imm) 0 t := by
  rw [exec_movi, execMovi, warpWord_runs hr]
  simp only [Issue.stallTrap_settled hr.2.2, hb]
  exact ⟨_, rfl, finish_writesV hr o.d _ _ hd (badOpnd_of_regTrap hb) rfl rfl rfl⟩

theorem sel_wf_isDest {o : Op3} (h : (Instr.sel o).wf = true) : o.d.isDest = true := by
  simp only [Instr.wf, Bool.and_eq_true] at h
  obtain ⟨⟨⟨⟨⟨-, hd⟩, -⟩, -⟩, -⟩, -⟩ := h
  exact hd

theorem movi_wf_isDest {o : OpL} (h : (Instr.movi o).wf = true) : o.d.isDest = true := by
  simp only [Instr.wf, Bool.and_eq_true] at h
  exact h.2

/-- Settles O8: each word reaches its end, where it writes D, a v register or a predicate, with the value that its rule gives. -/
theorem moveWords : Obligations.MoveWords := by
  refine ⟨fun s o it hr => ⟨fun hwf hb => ?_, fun _ hb => ⟨fun hd => ?_, fun n hd => ?_⟩⟩, fun s o it hr hwf hb => ?_⟩
  · exact sel_writes o hr (sel_wf_isDest hwf) hb
  · exact mov_writesV o hr hd hb
  · exact mov_writesP o hr hd hb
  · exact movi_writes o hr (movi_wf_isDest hwf) hb

/-! Index registers -/

/-- An index word whose source passes its check writes the index register that it names. -/
theorem indexOp_writes {s : State} {it : Issue} (o : Op3) (imm : Imm) (add : Bool) {n : BitVec 3} (hr : s.warpRuns o.ctl it)
    (hd : o.d = .xreg n) (hb : it.regTrap [(1, o.a, 1)] = none) :
    ∃ t, indexOp o imm add s = .next t ∧ it.writesX n.toNat
      (fun L => (if add then it.wp.xlane n.toNat L else 0) + (it.src 1 o.a imm 0 L).setWidth 16) t := by
  unfold indexOp
  rw [warpWord_runs hr]
  simp only [Issue.stallTrap_settled hr.2.2, hb]
  refine ⟨_, rfl, finish_writesX hr n.toNat _ _ (fun w => ?_) rfl rfl rfl⟩
  cases add <;> simp [hd, xNo, Issue.index_settled hr.2.2, BitVec.add_comm]

theorem xwin_sets {s : State} {it : Issue} (o : Op3) {n : BitVec 3} {base limit : BitVec 16} (hr : s.warpRuns o.ctl it)
    (hd : o.d = .xreg n) (ha : o.a = .imm base) (hb : o.b = .imm limit) :
    ∃ t x, exec (.xwin o) s = .next t ∧ it.ends it.s x t ∧ it.advanced x ∧
      x.still = ({ it.wp with win := (if it.act = 0 then it.wp.win else it.wp.win.set n.toNat (base.toNat, limit.toNat)) } : Warp).still := by
  rw [exec_xwin, execXwin, warpWord_runs hr]
  refine ⟨_, _, rfl, Issue.settled_finish hr.1 hr.2.2 _, goes_advanced rfl rfl (fun w => ?_), ?_⟩
  · dsimp only
    split <;> rfl
  · rw [goes_still_noFlags rfl, advance_eq]
    by_cases h : it.act = 0
    · simp only [h, beq_self_eq_true, if_true]
      rfl
    · simp only [beq_eq_false_iff_ne.2 h, Bool.false_eq_true, if_false, h, hd, ha, hb, xNo]
      rfl

/-- Settles O11: each word reaches its end, where it writes an index register or the register's window. -/
theorem indexWords : Obligations.IndexWords := by
  intro s o it n hr hd
  refine ⟨fun _ hb => ?_, fun _ hb => ?_, fun base limit ha hb _ => xwin_sets o hr hd ha hb⟩
  · simpa [exec_xset, execXset] using indexOp_writes o .zx false hr hd hb
  · simpa [exec_xadd, execXadd] using indexOp_writes o .sx true hr hd hb

end Sys2Proof.Machine
end
